-- ==== Sys2Proof/Word.lean ====
section
/-! DEFINITION. The word types of the SM3 Core (00_scope.md R6, R8, R9). Every value is unsigned (R8). -/

namespace Sys2Proof

/-- A byte of a message, digest or padding string (R10). -/
abbrev Byte := BitVec 8

/-- A 32-bit register or chaining word (R6). Addition on it is modulo 2^32 (R9, R162). -/
abbrev Word := BitVec 32

/-- A 64-bit value: CNT, CNTIN, PADLEN, the length field (R9). -/
abbrev DWord := BitVec 64

/-- An offset in the 256-byte register window (20_memory.md R50). -/
abbrev Offset := BitVec 8

end Sys2Proof
end

