-- ==== Sys2Proof/Syntax.lean ====
section
/-! DEFINITION. The five commands of the SM3 Core (30_encoding.md R81; spec/opcode_table.json). -/

namespace Sys2Proof

/-- A command. Every operand but UPDATE's byte count is a fixed register (30_encoding.md R82). -/
inductive Instr where
  /-- INIT (40_streaming.md R101). -/
  | init
  /-- UPDATE n: `nbytes` is the field NBYTES, unsigned, not scaled (40_streaming.md R102, 30_encoding.md R82). -/
  | update (nbytes : BitVec 7)
  /-- FINALIZE (40_streaming.md R104). -/
  | finalize
  /-- RESUME (41_resume_export.md R130). -/
  | resume
  /-- PAD (43_padding.md R180). -/
  | pad
deriving DecidableEq, Repr

end Sys2Proof
end

