-- ==== Sys2Proof/WellFormed.lean ====
section
/-! DEFINITION. Which commands the encoding admits (30_encoding.md R83, R84). -/

namespace Sys2Proof

/-- The range check of UPDATE: NBYTES is 0..64 (30_encoding.md R84). Every other command is well formed. -/
def Instr.wellFormed : Instr → Bool
  | .init => true
  | .update nbytes => decide (nbytes.toNat ≤ 64)
  | .finalize => true
  | .resume => true
  | .pad => true

end Sys2Proof
end

