-- ==== Sys2Proof/Decode.lean ====
section
/-! DEFINITION. The command word CMDW: its fields, the decoder, total on every 32-bit value and rejecting by name, the
legality test as R84 words it, and the encoder (30_encoding.md R80 to R86). -/

namespace Sys2Proof

/-- Why a word is not one of the five commands. Every reason completes with ERR = ILLEGAL (60_exceptions.md R202). -/
inductive DecodeError where
  /-- A bit of RES0, bits [7:4], is not 0. -/
  | res0NotZero
  /-- A bit of RES1, bits [31:15], is not 0. -/
  | res1NotZero
  /-- OP is 0x0 or 0x6..0xF. -/
  | opReserved
  /-- NBYTES is not 0 and OP is not UPDATE. -/
  | nbytesNotZero
  /-- NBYTES is over 64 with UPDATE. -/
  | nbytesOver64
deriving DecidableEq, Repr

/-- OP, bits [3:0] (R80). -/
def opField (c : Word) : BitVec 4 := c.extractLsb' 0 4

/-- RES0, bits [7:4] (R80). -/
def res0Field (c : Word) : BitVec 4 := c.extractLsb' 4 4

/-- NBYTES, bits [14:8] (R80). -/
def nbytesField (c : Word) : BitVec 7 := c.extractLsb' 8 7

/-- RES1, bits [31:15] (R80). -/
def res1Field (c : Word) : BitVec 17 := c.extractLsb' 15 17

/-- A command without operand: its NBYTES must be 0 (R80). -/
def plainCommand (i : Instr) (nbytes : BitVec 7) : Except DecodeError Instr :=
  if nbytes = 0 then .ok i else .error .nbytesNotZero

/-- The decoder: OP selects the command (R81), reserved bits must be 0 (R80), NBYTES in range (R84). -/
def decode (c : Word) : Except DecodeError Instr :=
  if res1Field c ≠ 0 then .error .res1NotZero
  else if res0Field c ≠ 0 then .error .res0NotZero
  else match (opField c).toNat with
    | 0x1 => plainCommand .init (nbytesField c)
    | 0x2 => if (nbytesField c).toNat ≤ 64 then .ok (.update (nbytesField c)) else .error .nbytesOver64
    | 0x3 => plainCommand .finalize (nbytesField c)
    | 0x4 => plainCommand .resume (nbytesField c)
    | 0x5 => plainCommand .pad (nbytesField c)
    | _ => .error .opReserved

/-- `legal(c)`, word for word R84. -/
def legal (c : Word) : Bool :=
  decide (res1Field c = 0) && decide (res0Field c = 0)
    && ((opField c).toNat ∈ [0x1, 0x2, 0x3, 0x4, 0x5])
    && (!decide (opField c = 0x2) || decide ((nbytesField c).toNat ≤ 64))
    && (decide (opField c = 0x2) || decide (nbytesField c = 0))

/-- The encodings of R83. -/
def encode : Instr → Word
  | .init => 0x00000001
  | .update nbytes => 0x00000002 ||| (nbytes.setWidth 32 <<< 8)
  | .finalize => 0x00000003
  | .resume => 0x00000004
  | .pad => 0x00000005

/-- The decoder on the low `nbits` bits of w. A command is one 32-bit word, with no longer and no shorter form (R86). -/
def decodeTableWord (nbits w : Nat) : Option Instr :=
  if nbits ≤ 32 then
    match decode (BitVec.ofNat 32 (w % 2 ^ nbits)) with
    | .ok i => some i
    | .error _ => none
  else none

end Sys2Proof
end

