-- ==== Sys2Proof/Config.lean ====
section
/-! DEFINITION. What the spec leaves open (00_scope.md R7; 93_implementation_defined.md I1 to I3): constants with no
body, so that no proof can rest on a value of one. -/

namespace Sys2Proof

/-- The free value of the n-th draw: what a read of BUFLEN, CNT, STATE, PADNB or PADOUT returns while BUSY = 1
("return any 32-bit value", 20_memory.md R67; 93 I1). Log entry 3. -/
opaque Config.busyRead : Nat → Word

/-- CMD_LATENCY (00_scope.md R7, 70_reset_and_hazards.md R241; 93 I2) of the command accepted at the n-th draw, counted
in host steps, for a command the platform's own list gives no latency to. It is finite, being a number. Log entry 2. -/
opaque Config.cmdLatency : Nat → Nat

/-- SM3_BASE, the bus address of offset 0x000 (00_scope.md R7, 20_memory.md R50; 93 I3). Log entry 6. -/
opaque Config.sm3Base : Nat

end Sys2Proof
end

