-- ==== Sys2Proof/Machine/State.lean ====
section
/-! DEFINITION. The state of the SM3 Core as 10_state.md R21 lists it, the inputs that drive it and the answers the host
gets, the reasons a step can stop, and the state after reset (70_reset_and_hazards.md R230). -/

namespace Sys2Proof.Machine

/-- PHASE, the context life cycle (10_state.md R25). The encoding 3 is never produced (93 I15; log entry 8). -/
inductive Phase where
  /-- No context exists. -/
  | idle
  /-- A context exists: UPDATE and FINALIZE run. -/
  | active
  /-- The context was finalized; V holds the digest. -/
  | final
deriving DecidableEq, Repr

/-- ERR, the result code of the last completed command (60_exceptions.md R201). Codes 5..15 are never produced (93 I15;
log entry 8). -/
inductive ErrCode where
  /-- 0: the command was performed. -/
  | ok
  /-- 1: the command word is not legal (R202). -/
  | illegal
  /-- 2: no context (R203). -/
  | noctx
  /-- 3: the context is already finalized (R207). -/
  | finalized
  /-- 4: a length bound would be passed (R208). -/
  | length
deriving DecidableEq, Repr

/-- What the outside world does next. The host's accesses are R67 and R68 of 20_memory.md, with the width of the access in
bits (R51); the reset input is R230 of 70_reset_and_hazards.md. Log entries 1, 5 and 7. -/
inductive Input where
  /-- A host read of `width` bits at offset `off`. -/
  | read (width : Nat) (off : Offset)
  /-- A host write of `width` bits at offset `off`. -/
  | write (width : Nat) (off : Offset) (value : Word)
  /-- WAIT: read STATUS until its bit 0 is 0 (30_encoding.md R88). -/
  | poll
  /-- The platform asserts reset and releases it. -/
  | reset
deriving DecidableEq, Repr

/-- What a host access brought back. -/
inductive Response where
  /-- The 32-bit value that a read of offset `off` returned. -/
  | value (off : Offset) (w : Word)
  /-- The access at offset `off` was refused (60_exceptions.md R204). -/
  | busError (off : Offset)
deriving DecidableEq, Repr

/-- The registers of the window (20_memory.md R52). -/
inductive Reg where
  | id
  | cmd
  | status
  | buflen
  | cntLo
  | cntHi
  | cntinLo
  | cntinHi
  | state (i : Fin 8)
  | din (i : Fin 8)
  | msg (i : Fin 16)
  | padlenLo
  | padlenHi
  | padnb
  | padout (i : Fin 18)
  /-- The reserved offsets 0x0AC, 0x0F8, 0x0FC (R65). -/
  | reserved (i : Fin 3)
deriving DecidableEq, Repr

/-- The working registers A..H of one compression (42_compression.md R160); no state of the block (10_state.md R30). -/
structure Work where
  a : Word
  b : Word
  c : Word
  d : Word
  e : Word
  f : Word
  g : Word
  h : Word
deriving DecidableEq, Repr

/-- Why a host access does not take place. -/
inductive Fault where
  /-- BusError(off): raised by `busRead` and `busWrite` for an access that is not of 32 bits at a multiple of 4
  (60_exceptions.md R204, 20_memory.md R51). It ends the host's access and not the block: `hostStep` reports it to the host
  as `Response.busError` and goes on with every register as before, so no step ends in it. Neither safe nor unsafe: it is what
  the spec says. Log entry 5. -/
  | busError (off : Offset)
deriving DecidableEq, Repr

/-- Why the model gives no meaning. -/
inductive Refusal where
  /-- An instruction with no meaning yet. Raised only by an arm of `exec`; no arm raises it. Safe: the run stops. -/
  | notModelled (mnemonic : String)
deriving DecidableEq, Repr

/-- The state of the block, R21 of 10_state.md, and after it the model's own fields for what is outside the block. BUSY is
`State.busy`, since R26 makes it 1 exactly when PENDING is not none (log entry 4). -/
structure State where
  /-- V[0..7], the chaining state (R22). -/
  v : Vector Word 8
  /-- CNT, the bits of message already compressed (R23). -/
  cnt : DWord
  /-- BUF, the bytes accepted and not yet compressed, in arrival order (R24). -/
  buf : List Byte
  /-- PHASE (R25). -/
  phase : Phase
  /-- PENDING, the command word in flight (R26). -/
  pending : Option Word
  /-- ERR (R27). -/
  err : ErrCode
  /-- OVR: a write was dropped while busy (R27). -/
  ovr : Bool
  /-- CNTIN, the claimed bit count for RESUME (R28). -/
  cntin : DWord
  /-- DIN[0..7], the digest for RESUME (R28). -/
  din : Vector Word 8
  /-- MSG[0..15], the chunk for UPDATE (R28). -/
  msg : Vector Word 16
  /-- PADLEN, the byte length for PAD (R28). -/
  padlen : DWord
  /-- PADNB, the length of the last successful PAD's padding (R29). -/
  padnb : BitVec 7
  /-- PADOUT[0..17], the last successful PAD's padding (R29). -/
  padout : Vector Word 18
  /-- The model's own: host steps left before the command in flight completes (CMD_LATENCY, R241; log entry 2). -/
  latencyLeft : Nat
  /-- The model's own: the latencies of the next accepted commands, as far as the platform names them (log entry 2). -/
  latencies : List Nat
  /-- The model's own: what the outside world does next, first element first (log entry 1). -/
  inputs : List Input
  /-- The model's own: what the host's accesses returned, oldest first (log entry 1). -/
  responses : List Response
  /-- The model's own: the index of the next free value (log entry 3). -/
  draws : Nat
deriving DecidableEq, Repr

/-- BUSY = 1 if and only if PENDING is not none (R26). -/
def State.busy (s : State) : Bool := s.pending.isSome

/-- The machine right after reset: every element of the block at R230's value; the model's own fields empty (log
entry 9). -/
def State.reset : State where
  v := Vector.replicate 8 0
  cnt := 0
  buf := []
  phase := .idle
  pending := none
  err := .ok
  ovr := false
  cntin := 0
  din := Vector.replicate 8 0
  msg := Vector.replicate 16 0
  padlen := 0
  padnb := 0
  padout := Vector.replicate 18 0
  latencyLeft := 0
  latencies := []
  inputs := []
  responses := []
  draws := 0

end Sys2Proof.Machine
end

