-- ==== Sys2Proof/Machine/Ops.lean ====
section
/-! DEFINITION. The operations every command and access is made of: byte order (00_scope.md R10, 20_memory.md R66), rotation,
and the named updates of State. The block takes no exception (60_exceptions.md R200, R212): the one shared operation in its
place is `State.fail`, and there is no return from it (R213). -/

namespace Sys2Proof.Machine

/-! ## Words and byte strings -/

/-- `ROTL(x, n)`, the formula of 42_compression.md R150. -/
def rotl (x : Word) (n : Nat) : Word :=
  let k := n % 32
  if k = 0 then x else (x <<< k) ||| (x >>> (32 - k))

/-- `zeros(n)` (00_scope.md R10). -/
def zeros (n : Nat) : List Byte := List.replicate n 0

/-- `be32(w)`: the most significant byte first (00_scope.md R10). -/
def be32 (w : Word) : List Byte :=
  [w.extractLsb' 24 8, w.extractLsb' 16 8, w.extractLsb' 8 8, w.extractLsb' 0 8]

/-- `be64(v)`: the most significant byte first (00_scope.md R10). -/
def be64 (v : DWord) : List Byte :=
  [v.extractLsb' 56 8, v.extractLsb' 48 8, v.extractLsb' 40 8, v.extractLsb' 32 8,
    v.extractLsb' 24 8, v.extractLsb' 16 8, v.extractLsb' 8 8, v.extractLsb' 0 8]

/-- `s[i]` widened to a word; 0 past the end of the string. -/
def byteAt (s : List Byte) (i : Nat) : Word := (s.getD i 0).setWidth 32

/-- `word32(s, i)`, the big-endian word i of s (00_scope.md R10). Past the end of s it reads zeros, which is how R64, R88
and R183 fill the last word. -/
def word32 (s : List Byte) (i : Nat) : Word :=
  (byteAt s (4 * i) <<< 24) ||| (byteAt s (4 * i + 1) <<< 16) ||| (byteAt s (4 * i + 2) <<< 8) ||| byteAt s (4 * i + 3)

/-- The byte string a file of n words stands for: byte 4i + k is bits [31 - 8k : 24 - 8k] of word i (20_memory.md R59, R61,
R64). -/
def wordsBytes {n : Nat} (ws : Vector Word n) : List Byte := ws.toList.flatMap be32

/-- The n words of a byte string, the first byte the most significant byte of word 0 (20_memory.md R60, R61, R64). -/
def bytesWords (n : Nat) (s : List Byte) : Vector Word n := Vector.ofFn fun i : Fin n => word32 s i

/-- Bits [31:0] of a 64-bit value (20_memory.md R57, R58, R62). -/
def loHalf (v : DWord) : Word := v.extractLsb' 0 32

/-- Bits [63:32] of a 64-bit value (20_memory.md R57, R58, R62). -/
def hiHalf (v : DWord) : Word := v.extractLsb' 32 32

/-- A write of bits [31:0] keeps bits [63:32] (20_memory.md R58). -/
def setLoHalf (v : DWord) (w : Word) : DWord := hiHalf v ++ w

/-- A write of bits [63:32] keeps bits [31:0] (20_memory.md R58). -/
def setHiHalf (v : DWord) (w : Word) : DWord := w ++ loHalf v

/-! ## Named updates of State -/

/-- Set ERR (10_state.md R27). -/
def State.setErr (s : State) (code : ErrCode) : State := { s with err := code }

/-- Install a hash context: the elements INIT, UPDATE, FINALIZE and RESUME write, and no other (10_state.md R22, R23, R24,
R25). -/
def State.setContext (s : State) (v : Vector Word 8) (cnt : DWord) (buf : List Byte) (phase : Phase) : State :=
  { s with v := v, cnt := cnt, buf := buf, phase := phase }

/-- Write the padding outputs (10_state.md R29). -/
def State.setPadding (s : State) (nb : BitVec 7) (out : Vector Word 18) : State :=
  { s with padnb := nb, padout := out }

/-- BUSY <- 0; PENDING <- none (40_streaming.md R100). -/
def State.retire (s : State) : State := { s with pending := none, latencyLeft := 0 }

/-- A command is accepted: OVR <- 0; ERR <- 0; PENDING <- c; BUSY <- 1 (20_memory.md R68). Its latency is the platform's:
the head of `latencies`, or a free value (log entry 2). -/
def State.accept (s : State) (c : Word) : State :=
  { s with
    ovr := false
    err := .ok
    pending := some c
    latencyLeft := s.latencies.headD (Config.cmdLatency s.draws)
    latencies := s.latencies.tail
    draws := s.draws + 1 }

/-- A write is dropped because BUSY = 1: OVR <- 1 (20_memory.md R68, 60_exceptions.md R209). -/
def State.dropWrite (s : State) : State := { s with ovr := true }

/-- CNTIN <- v (10_state.md R28). -/
def State.setCntin (s : State) (v : DWord) : State := { s with cntin := v }

/-- DIN[i] <- w (10_state.md R28). -/
def State.setDin (s : State) (i : Fin 8) (w : Word) : State := { s with din := s.din.set i w }

/-- MSG[i] <- w (10_state.md R28). -/
def State.setMsg (s : State) (i : Fin 16) (w : Word) : State := { s with msg := s.msg.set i w }

/-- PADLEN <- v (10_state.md R28). -/
def State.setPadlen (s : State) (v : DWord) : State := { s with padlen := v }

/-- The reset input: every element of the block takes its reset value, a command in flight is discarded
(70_reset_and_hazards.md R230, R231). What is outside the block stays. -/
def State.resetBlock (s : State) : State :=
  { State.reset with latencies := s.latencies, inputs := s.inputs, responses := s.responses, draws := s.draws }

/-- The inputs still to come. -/
def State.setInputs (s : State) (rest : List Input) : State := { s with inputs := rest }

/-- The host gets an answer. -/
def State.respond (s : State) (r : Response) : State := { s with responses := s.responses ++ [r] }

/-- A free value has been used. -/
def State.drawn (s : State) : State := { s with draws := s.draws + 1 }

/-- One host step passes while a command is in flight (log entry 2). -/
def State.tick (s : State) : State := { s with latencyLeft := s.latencyLeft - 1 }

/-! ## How a command ends -/

/-- `fail <code>`: the command ends with ERR = code and changes no other state (00_scope.md R11, 60_exceptions.md R206). -/
def State.fail (s : State) (code : ErrCode) : Host.Outcome State Fault Refusal := .next (s.setErr code)

/-- The command was performed: ERR <- OK (40_streaming.md R100). -/
def State.done (s : State) : Host.Outcome State Fault Refusal := .next (s.setErr .ok)

end Sys2Proof.Machine
end

