-- ==== Sys2Proof/Machine/Operands.lean ====
section
/-! DEFINITION. The operands of the commands (30_encoding.md R82): NBYTES is the only immediate, every other operand is a
fixed register, zero-extended, never sign-extended. -/

namespace Sys2Proof.Machine

/-- The 64 bytes of MSG0..MSG15 in chunk order: the first is the most significant byte of MSG0 (20_memory.md R61). -/
def State.msgBytes (s : State) : List Byte := wordsBytes s.msg

/-- UPDATE's chunk: bytes 0..n-1 of MSG; the other bytes are ignored (20_memory.md R61, 40_streaming.md R102). -/
def State.chunk (s : State) (n : Nat) : List Byte := s.msgBytes.take n

/-- The bytes of V in digest order (20_memory.md R59). -/
def State.digest (s : State) : List Byte := wordsBytes s.v

/-- The message length so far in bits, `CNT + 8·|BUF|`, an exact integer (10_state.md R23). -/
def State.totalBits (s : State) : Nat := s.cnt.toNat + 8 * s.buf.length

/-- PAD's operand L (43_padding.md R180). -/
def State.padBytes (s : State) : Nat := s.padlen.toNat

end Sys2Proof.Machine
end

