-- ==== Sys2Proof/Machine/Flags.lean ====
section
/-! DEFINITION. The flags of the block: the STATUS word (20_memory.md R55, 10_state.md R32) and the conditions that set
ERR (60_exceptions.md R201 to R208). -/

namespace Sys2Proof.Machine

/-- The encoding of PHASE in STATUS (10_state.md R25). -/
def Phase.code : Phase → Word
  | .idle => 0
  | .active => 1
  | .final => 2

/-- The encoding of ERR in STATUS (60_exceptions.md R201). -/
def ErrCode.code : ErrCode → Word
  | .ok => 0
  | .illegal => 1
  | .noctx => 2
  | .finalized => 3
  | .length => 4

/-- A flag as bit 0 of a word. -/
def flagBit (b : Bool) : Word := if b then 1 else 0

/-- `STATUS = BUSY | (PHASE << 1) | (OVR << 3) | (ERR << 4)` (20_memory.md R55). -/
def State.status (s : State) : Word :=
  flagBit s.busy ||| (s.phase.code <<< 1) ||| (flagBit s.ovr <<< 3) ||| (s.err.code <<< 4)

/-- The phase check of UPDATE and FINALIZE: NOCTX in IDLE, FINALIZED in FINAL (60_exceptions.md R203, R207). -/
def Phase.refusal : Phase → Option ErrCode
  | .idle => some .noctx
  | .active => none
  | .final => some .finalized

/-- UPDATE n would pass the 64-bit bound: `CNT + 8·(|BUF| + n) > 2^64 - 1`, on exact integers (40_streaming.md R102,
60_exceptions.md R208). -/
def State.updateTooLong (s : State) (n : Nat) : Bool := decide (s.cnt.toNat + 8 * (s.buf.length + n) > 2 ^ 64 - 1)

/-- PAD's bound: `L >= 2^61` (43_padding.md R180, 60_exceptions.md R208). -/
def State.padTooLong (s : State) : Bool := decide (s.padBytes ≥ 2 ^ 61)

end Sys2Proof.Machine
end

