-- ==== Sys2Proof/Machine/Window.lean ====
section
/-! DEFINITION. The register window (20_memory.md R50 to R68): the register map, RegRead, RegWrite, and which accesses the
block refuses. -/

namespace Sys2Proof.Machine

/-! ## The map -/

/-- The offset of a register (R52). -/
def Reg.offset : Reg → Offset
  | .id => 0x00
  | .cmd => 0x04
  | .status => 0x08
  | .buflen => 0x0C
  | .cntLo => 0x10
  | .cntHi => 0x14
  | .cntinLo => 0x18
  | .cntinHi => 0x1C
  | .state i => 0x20 + 4 * BitVec.ofNat 8 i
  | .din i => 0x40 + 4 * BitVec.ofNat 8 i
  | .msg i => 0x60 + 4 * BitVec.ofNat 8 i
  | .padlenLo => 0xA0
  | .padlenHi => 0xA4
  | .padnb => 0xA8
  | .padout i => 0xB0 + 4 * BitVec.ofNat 8 i
  | .reserved i => if i = 0 then 0xAC else 0xF4 + 4 * BitVec.ofNat 8 i

/-- The register of the word slot k, k = 0..63, slot k being offset 4k (R52). -/
def slotReg (k : Nat) : Reg :=
  if k = 0 then .id
  else if k = 1 then .cmd
  else if k = 2 then .status
  else if k = 3 then .buflen
  else if k = 4 then .cntLo
  else if k = 5 then .cntHi
  else if k = 6 then .cntinLo
  else if k = 7 then .cntinHi
  else if k < 16 then .state (Fin.ofNat 8 (k - 8))
  else if k < 24 then .din (Fin.ofNat 8 (k - 16))
  else if k < 40 then .msg (Fin.ofNat 16 (k - 24))
  else if k = 40 then .padlenLo
  else if k = 41 then .padlenHi
  else if k = 42 then .padnb
  else if k = 43 then .reserved 0
  else if k < 62 then .padout (Fin.ofNat 18 (k - 44))
  else .reserved (Fin.ofNat 3 (k - 61))

/-- The register at an offset that is a multiple of 4 (R52). -/
def regAt (off : Offset) : Reg := slotReg (off.toNat / 4)

/-- An access the block refuses: not of 32 bits, or at an offset with bits [1:0] not 00 (R51, 60_exceptions.md R204). -/
def refusedAccess (width : Nat) (off : Offset) : Bool := decide (width ≠ 32) || decide (off.extractLsb' 0 2 ≠ 0)

/-- The bus address of an offset (R50; log entry 6). -/
def busAddress (off : Offset) : Nat := Config.sm3Base + off.toNat

/-- The offset of a bus address: none outside the window, where an access is not the block's (R50, R51; log entry 6). -/
def windowOffset (addr : Nat) : Option Offset :=
  if Config.sm3Base ≤ addr ∧ addr - Config.sm3Base < 256 then some (BitVec.ofNat 8 (addr - Config.sm3Base)) else none

/-! ## RegRead -/

/-- The identity constant (R53). -/
def identity : Word := 0x534D3301

/-- What a register holds (R53 to R65). CMD and the reserved offsets read 0 (R54, R65). -/
def State.regValue (s : State) : Reg → Word
  | .id => identity
  | .cmd => 0
  | .status => s.status
  | .buflen => BitVec.ofNat 32 s.buf.length
  | .cntLo => loHalf s.cnt
  | .cntHi => hiHalf s.cnt
  | .cntinLo => loHalf s.cntin
  | .cntinHi => hiHalf s.cntin
  | .state i => s.v.get i
  | .din i => s.din.get i
  | .msg i => s.msg.get i
  | .padlenLo => loHalf s.padlen
  | .padlenHi => hiHalf s.padlen
  | .padnb => s.padnb.setWidth 32
  | .padout i => s.padout.get i
  | .reserved _ => 0

/-- The registers that read any value while BUSY = 1 (R67; 93 I1). -/
def Reg.anyWhileBusy : Reg → Bool
  | .buflen | .cntLo | .cntHi | .state _ | .padnb | .padout _ => true
  | .id | .cmd | .status | .cntinLo | .cntinHi | .din _ | .msg _ | .padlenLo | .padlenHi | .reserved _ => false

/-- A read of this register is a free draw now. -/
def State.drawsOn (s : State) (r : Reg) : Bool := s.busy && r.anyWhileBusy

/-- `RegRead(off)` (R67). -/
def State.regRead (s : State) (off : Offset) : Word :=
  if s.drawsOn (regAt off) then Config.busyRead s.draws else s.regValue (regAt off)

/-- The state after a RegRead: a read changes no state of the block (R67, R69); a draw has been used if it took one. -/
def State.afterRead (s : State) (off : Offset) : State := if s.drawsOn (regAt off) then s.drawn else s

/-! ## RegWrite -/

/-- Write an input register while BUSY = 0; every other register keeps its value (R58, R60, R61, R62, R65, R68). -/
def State.writeInput (s : State) (w : Word) : Reg → State
  | .cntinLo => s.setCntin (setLoHalf s.cntin w)
  | .cntinHi => s.setCntin (setHiHalf s.cntin w)
  | .din i => s.setDin i w
  | .msg i => s.setMsg i w
  | .padlenLo => s.setPadlen (setLoHalf s.padlen w)
  | .padlenHi => s.setPadlen (setHiHalf s.padlen w)
  | .id | .cmd | .status | .buflen | .cntLo | .cntHi | .state _ | .padnb | .padout _ | .reserved _ => s

/-- The registers a write to which is dropped while BUSY = 1: CMD and the input registers (R68, 60_exceptions.md R209). -/
def Reg.droppedWhileBusy : Reg → Bool
  | .cmd | .cntinLo | .cntinHi | .din _ | .msg _ | .padlenLo | .padlenHi => true
  | .id | .status | .buflen | .cntLo | .cntHi | .state _ | .padnb | .padout _ | .reserved _ => false

/-- `RegWrite(off, v)` (R68). -/
def State.regWrite (s : State) (off : Offset) (w : Word) : State :=
  let r := regAt off
  if s.busy then (if r.droppedWhileBusy then s.dropWrite else s)
  else if r = .cmd then s.accept w
  else s.writeInput w r

end Sys2Proof.Machine
end

