-- ==== Sys2Proof/Machine/Bus.lean ====
section
/-! DEFINITION. The host agent (10_state.md R20): one register access per step, the reset input, and the host notation of
30_encoding.md R87 and R88 as lists of inputs. -/

namespace Sys2Proof.Machine

/-! ## One access -/

/-- A host read: `raise BusError(off)` if the block refuses the access (20_memory.md R51), else RegRead and its value. -/
def busRead (width : Nat) (off : Offset) (s : State) : Host.Outcome State Fault Refusal :=
  if refusedAccess width off then .fault (.busError off)
  else .next ((s.afterRead off).respond (.value off (s.regRead off)))

/-- A host write: `raise BusError(off)` if the block refuses the access (20_memory.md R51), else RegWrite. -/
def busWrite (width : Nat) (off : Offset) (w : Word) (s : State) : Host.Outcome State Fault Refusal :=
  if refusedAccess width off then .fault (.busError off)
  else .next (s.regWrite off w)

/-- The end of an access made from state s: a refused one changes no state of the block, and the host is told
(60_exceptions.md R204; log entry 5). -/
def finishAccess (s : State) : Host.Outcome State Fault Refusal → Host.Outcome State Fault Refusal
  | .next t => .next t
  | .fault (.busError off) => .next (s.respond (.busError off))
  | .refused r => .refused r

/-- The host's step: its next access, one turn of a WAIT, or the reset input; nothing when no input is left (10_state.md R20,
60_exceptions.md R219). -/
def hostStep (s : State) : Host.Outcome State Fault Refusal :=
  match s.inputs with
  | [] => .next s
  | .read width off :: rest => finishAccess (s.setInputs rest) (busRead width off (s.setInputs rest))
  | .write width off w :: rest => finishAccess (s.setInputs rest) (busWrite width off w (s.setInputs rest))
  | .poll :: rest =>
    if s.busy then finishAccess s (busRead 32 Reg.status.offset s)
    else finishAccess (s.setInputs rest) (busRead 32 Reg.status.offset (s.setInputs rest))
  | .reset :: rest => .next (s.setInputs rest).resetBlock

/-! ## Host notation (30_encoding.md R87, R88) -/

/-- `WR <reg>, <imm32>`. -/
def wr (r : Reg) (w : Word) : Input := .write 32 r.offset w

/-- `RD <reg>`. -/
def rd (r : Reg) : Input := .read 32 r.offset

/-- `CMD <cmd>`. -/
def cmdOp (i : Instr) : Input := wr .cmd (encode i)

/-- `EXEC <cmd>`: the command, then WAIT. -/
def execOps (i : Instr) : List Input := [cmdOp i, .poll]

/-- `LOADMSG <bytes s>`, |s| at most 64: MSG0 to MSG(ceil(|s|/4) - 1), the unused low bytes of the last word 0. -/
def loadMsgOps (s : List Byte) : List Input :=
  (List.range ((s.length + 3) / 4)).map fun i => wr (.msg (Fin.ofNat 16 i)) (word32 s i)

/-- `LOADMSG c; EXEC UPDATE |c|`. -/
def updateOps (c : List Byte) : List Input := loadMsgOps c ++ execOps (.update (BitVec.ofNat 7 c.length))

/-- The consecutive 64-byte chunks of a byte string, the last one shorter, none for the empty string; n bounds their number. -/
def chunks64 : Nat → List Byte → List (List Byte)
  | 0, _ => []
  | n + 1, s => if s.isEmpty then [] else s.take 64 :: chunks64 n (s.drop 64)

/-- `ABSORB <bytes s>`. -/
def absorbOps (s : List Byte) : List Input := (chunks64 s.length s).flatMap updateOps

/-- `LOADDIGEST <32 bytes d>`. -/
def loadDigestOps (d : List Byte) : List Input :=
  (List.finRange 8).map fun i => wr (.din i) (word32 d i)

/-- `SETCNT <v>`. -/
def setCntOps (v : DWord) : List Input := [wr .cntinLo (loHalf v), wr .cntinHi (hiHalf v)]

/-- `SETPADLEN <L>`. -/
def setPadLenOps (l : DWord) : List Input := [wr .padlenLo (loHalf l), wr .padlenHi (hiHalf l)]

/-- `READDIGEST -> d`: the eight reads; the digest is the be32 of the eight answers. -/
def readDigestOps : List Input := (List.finRange 8).map fun i => rd (.state i)

/-- `CHECK`: the read of STATUS whose bits the host program tests. -/
def checkOps : List Input := [rd .status]

end Sys2Proof.Machine
end

