-- ==== Sys2Proof/Machine/Padding.lean ====
section
/-! DEFINITION. The padding calculator (43_padding.md R180 to R184). -/

namespace Sys2Proof.Machine

/-- z = (55 - (L mod 64)) mod 64 (R181); 64 is added before the subtraction, which stays a natural number so. -/
def padZeros (l : Nat) : Nat := (64 + 55 - l % 64) % 64

/-- `padding_for(L) = [0x80] ++ zeros(z) ++ be64(8 * L)` (R181). -/
def paddingFor (l : Nat) : List Byte := [0x80] ++ zeros (padZeros l) ++ be64 (BitVec.ofNat 64 (8 * l))

/-- PAD, in every phase (R180). Bytes past the padding are 0x00 (R183). -/
def execPad (s : State) : Host.Outcome State Fault Refusal :=
  if s.padTooLong then s.fail .length
  else
    let p := paddingFor s.padBytes
    (s.setPadding (BitVec.ofNat 7 p.length) (bytesWords 18 p)).done

end Sys2Proof.Machine
end

