-- ==== Sys2Proof/Machine/Resume.lean ====
section
/-! DEFINITION. The state-transfer command RESUME (41_resume_export.md R130). Export is host reads (R131), in Window. -/

namespace Sys2Proof.Machine

/-- RESUME, in every phase; every digest and every count is accepted (R130). -/
def execResume (s : State) : Host.Outcome State Fault Refusal := (s.setContext s.din s.cntin [] .active).done

end Sys2Proof.Machine
end

