-- ==== Sys2Proof/Machine/Compression.lean ====
section
/-! DEFINITION. The compression function CF (42_compression.md R150 to R163), the scalar form, which is the only behaviour
of the block (R163). Its constants and data flow that the source omits are the spec's G2 to G7 (93 part 2), normative. -/

namespace Sys2Proof.Machine

/-- The permutation P0 (R151). -/
def p0 (x : Word) : Word := x ^^^ rotl x 9 ^^^ rotl x 17

/-- The permutation P1 (R152). -/
def p1 (x : Word) : Word := x ^^^ rotl x 15 ^^^ rotl x 23

/-- The round constant T[j], already rotated (R153). -/
def roundConst (j : Nat) : Word :=
  if j ≤ 15 then rotl 0x79CC4519 (j % 32) else rotl 0x7A879D8A (j % 32)

/-- FF[j]: XOR up to round 15, then majority (R154). -/
def ff (j : Nat) (x y z : Word) : Word :=
  if j ≤ 15 then x ^^^ y ^^^ z else (x &&& y) ||| (x &&& z) ||| (y &&& z)

/-- GG[j]: XOR up to round 15, then choice with X the selector (R155). -/
def gg (j : Nat) (x y z : Word) : Word :=
  if j ≤ 15 then x ^^^ y ^^^ z else (x &&& y) ||| (~~~x &&& z)

/-- The initial value IV (R156). -/
def iv : Vector Word 8 :=
  #v[0x7380166F, 0x4914B2B9, 0x172442D7, 0xDA8A0600, 0xA96F30BC, 0x163138AA, 0xE38DEE4D, 0xB0FB0E4E]

/-- W[0..15]: the big-endian words of the block (R157). -/
def messageWords (blk : List Byte) : List Word := (List.range 16).map (word32 blk)

/-- W[j] from W[0..j-1], for j = the number of words there are (R158). -/
def nextWord (ws : List Word) : Word :=
  let j := ws.length
  p1 (ws.getD (j - 16) 0 ^^^ ws.getD (j - 9) 0 ^^^ rotl (ws.getD (j - 3) 0) 15)
    ^^^ rotl (ws.getD (j - 13) 0) 7 ^^^ ws.getD (j - 6) 0

/-- Append the next n expanded words (R158). -/
def expandBy : Nat → List Word → List Word
  | 0, ws => ws
  | n + 1, ws => expandBy n (ws ++ [nextWord ws])

/-- W[0..67], 68 words (R158). -/
def expandedWords (blk : List Byte) : List Word := expandBy 52 (messageWords blk)

/-- W[j]. -/
def wAt (w : List Word) (j : Nat) : Word := w.getD j 0

/-- W1[j] = W[j] XOR W[j+4] (R159). -/
def w1At (w : List Word) (j : Nat) : Word := wAt w j ^^^ wAt w (j + 4)

/-- Round j, all of it from the values before the round (R160). -/
def compressionRound (w : List Word) (j : Nat) (r : Work) : Work :=
  let ss1 := rotl (rotl r.a 12 + r.e + roundConst j) 7
  let ss2 := ss1 ^^^ rotl r.a 12
  let tt1 := ff j r.a r.b r.c + r.d + ss2 + w1At w j
  let tt2 := gg j r.e r.f r.g + r.h + ss1 + wAt w j
  { a := tt1, b := r.a, c := rotl r.b 9, d := r.c, e := p0 tt2, f := r.e, g := rotl r.f 19, h := r.g }

/-- Rounds 0..n-1 in increasing order (R161). -/
def compressionRounds (w : List Word) : Nat → Work → Work
  | 0, r => r
  | n + 1, r => compressionRound w n (compressionRounds w n r)

/-- (A, .., H) <- (V[0], .., V[7]) (R161). -/
def Work.ofState (v : Vector Word 8) : Work :=
  { a := v[0], b := v[1], c := v[2], d := v[3], e := v[4], f := v[5], g := v[6], h := v[7] }

/-- The working registers XORed into V, the last step of a compression (R161). -/
def feedForward (v : Vector Word 8) (r : Work) : Vector Word 8 :=
  #v[r.a ^^^ v[0], r.b ^^^ v[1], r.c ^^^ v[2], r.d ^^^ v[3], r.e ^^^ v[4], r.f ^^^ v[5], r.g ^^^ v[6], r.h ^^^ v[7]]

/-- `CF(V, blk)` (R161). It reads nothing but V and the block, and is total. -/
def cf (v : Vector Word 8) (blk : List Byte) : Vector Word 8 :=
  feedForward v (compressionRounds (expandedWords blk) 64 (Work.ofState v))

end Sys2Proof.Machine
end

