-- ==== Sys2Proof/Machine/Streaming.lean ====
section
/-! DEFINITION. The streaming commands INIT, UPDATE and FINALIZE (40_streaming.md R101 to R105). -/

namespace Sys2Proof.Machine

/-- INIT, in every phase (R101). -/
def execInit (s : State) : Host.Outcome State Fault Refusal := (s.setContext iv 0 [] .active).done

/-- The context after b has been appended to: one compression exactly when 64 bytes are there (R102). -/
def State.absorb (s : State) (b : List Byte) : State :=
  if b.length ≥ 64 then s.setContext (cf s.v (b.take 64)) (s.cnt + 512) (b.drop 64) s.phase
  else s.setContext s.v s.cnt b s.phase

/-- UPDATE n: the checks in R205's order, then the chunk (R102). That n is at most 64 the decoder has checked (R84; log
entry 10). -/
def execUpdate (nbytes : BitVec 7) (s : State) : Host.Outcome State Fault Refusal :=
  match s.phase.refusal with
  | some code => s.fail code
  | none =>
    if s.updateTooLong nbytes.toNat then s.fail .length
    else (s.absorb (s.buf ++ s.chunk nbytes.toNat)).done

/-- `m ++ zeros(56 - |m|) ++ be64(total)`, the last block (R104). -/
def lengthBlock (m : List Byte) (total : Nat) : List Byte :=
  m ++ zeros (56 - m.length) ++ be64 (BitVec.ofNat 64 total)

/-- V after the padding: an extra block first when 0x80 leaves more than 56 bytes (R104; 90_conflicts.md C4). -/
def finalizeChaining (v : Vector Word 8) (buf : List Byte) (total : Nat) : Vector Word 8 :=
  let m := buf ++ [0x80]
  if m.length > 56 then cf (cf v (m ++ zeros (64 - m.length))) (lengthBlock [] total)
  else cf v (lengthBlock m total)

/-- FINALIZE (R104). Outside R34's bound, which no run passes, the 64-bit total is taken modulo 2^64 (log entry 11). -/
def execFinalize (s : State) : Host.Outcome State Fault Refusal :=
  match s.phase.refusal with
  | some code => s.fail code
  | none =>
    (s.setContext (finalizeChaining s.v s.buf s.totalBits) (BitVec.ofNat 64 s.totalBits) [] .final).done

end Sys2Proof.Machine
end

