-- ==== Sys2Proof/Machine/Dispatch.lean ====
section
/-! DEFINITION. The meaning of each command, one arm per constructor. -/

namespace Sys2Proof.Machine

/-- Perform a legal command (40_streaming.md R100). -/
def exec (i : Instr) (s : State) : Host.Outcome State Fault Refusal :=
  match i with
  | .init => Sys2Proof.Machine.execInit s
  | .update nbytes => Sys2Proof.Machine.execUpdate nbytes s
  | .finalize => Sys2Proof.Machine.execFinalize s
  | .resume => Sys2Proof.Machine.execResume s
  | .pad => Sys2Proof.Machine.execPad s

end Sys2Proof.Machine
end

