-- ==== Sys2Proof/Machine/Completion.lean ====
section
/-! DEFINITION. The core agent: the completion step (40_streaming.md R100), its one step (10_state.md R20). -/

namespace Sys2Proof.Machine

/-- BUSY <- 0; PENDING <- none, at the end of a command (40_streaming.md R100). -/
def retireOutcome : Host.Outcome State Fault Refusal → Host.Outcome State Fault Refusal
  | .next t => .next t.retire
  | .fault r => .fault r
  | .refused r => .refused r

/-- Perform the command word c: a word that is not legal ends with ILLEGAL, any other with what its command does
(40_streaming.md R100, 30_encoding.md R84, 60_exceptions.md R202). -/
def perform (c : Word) (s : State) : Host.Outcome State Fault Refusal :=
  match decode c with
  | .error _ => s.fail .illegal
  | .ok i => exec i s

/-- The core's step, enabled only while a command is in flight (40_streaming.md R100). -/
def coreStep (s : State) : Host.Outcome State Fault Refusal :=
  match s.pending with
  | none => .next s
  | some c => retireOutcome (perform c s)

/-- It is the core's turn: a command is in flight and no host step comes before its completion (70_reset_and_hazards.md
R241; log entry 2). -/
def State.coreTurn (s : State) : Bool := s.busy && decide (s.latencyLeft = 0)

end Sys2Proof.Machine
end

