-- ==== Sys2Proof/Machine/Step.lean ====
section
/-! DEFINITION. One step: a host step or the core's completion step, never both (60_exceptions.md R205, 20_memory.md R71). -/

namespace Sys2Proof.Machine

/-- While a command is in flight the host takes `latencyLeft` more steps and then the core completes it; with nothing in
flight only the host steps (70_reset_and_hazards.md R241; log entries 1 and 2). -/
def step (s : State) : Host.Outcome State Fault Refusal :=
  if s.coreTurn then coreStep s else hostStep s.tick

/-- s with the low `nbits` bits of w as the command in flight, to be completed by the very next step: the block fetches
nothing (10_state.md R31), and PENDING is where a completion takes its command from (40_streaming.md R100; log entry 1). -/
def State.withFetchWord (s : State) (nbits w : Nat) : State :=
  { s with pending := some (BitVec.ofNat 32 (w % 2 ^ nbits)), latencyLeft := 0 }

end Sys2Proof.Machine
end

