-- ==== Sys2Proof/Machine/Digest.lean ====
section
/-! DEFINITION. What the spec says of whole messages, over the commands' meanings: the SM3 digest of a byte string
(40_streaming.md R105), a message fed by LOADMSG and UPDATE (30_encoding.md R88, 40_streaming.md R103), and the command
sequences of R105 and of 41_resume_export.md R135. No step calls these; statements do. -/

namespace Sys2Proof.Machine

/-- The first n 64-byte blocks of s compressed in order, from v. -/
def compressBlocks : Nat → Vector Word 8 → List Byte → Vector Word 8
  | 0, v, _ => v
  | n + 1, v, s => compressBlocks n (cf v (s.take 64)) (s.drop 64)

/-- All the whole 64-byte blocks of s compressed in order, from v (40_streaming.md R103). -/
def compressWhole (v : Vector Word 8) (s : List Byte) : Vector Word 8 := compressBlocks (s.length / 64) v s

/-- The SM3 digest of a message, as words: `M ++ padding_for(|M|)` in 64-byte blocks from IV (40_streaming.md R105). -/
def sm3 (m : List Byte) : Vector Word 8 := compressWhole iv (m ++ paddingFor m.length)

/-- What LOADMSG leaves: MSG0 to MSG(ceil(|c|/4) - 1) written, the others as before (30_encoding.md R88). -/
def State.loadMsg (s : State) (c : List Byte) : State :=
  { s with msg := Vector.ofFn fun i : Fin 16 => if i < (c.length + 3) / 4 then word32 c i else s.msg.get i }

/-- Go on with f after an outcome that gives a next state. -/
def andThen (o : Host.Outcome State Fault Refusal) (f : State → Host.Outcome State Fault Refusal) :
    Host.Outcome State Fault Refusal :=
  match o with
  | .next t => f t
  | .fault r => .fault r
  | .refused r => .refused r

/-- `LOADMSG c; UPDATE |c|`. -/
def feed (c : List Byte) (s : State) : Host.Outcome State Fault Refusal :=
  exec (.update (BitVec.ofNat 7 c.length)) (s.loadMsg c)

/-- A message fed chunk by chunk (40_streaming.md R103). -/
def feedAll : List (List Byte) → State → Host.Outcome State Fault Refusal
  | [], s => .next s
  | c :: cs, s => andThen (feed c s) (feedAll cs)

/-- INIT, the chunks, FINALIZE (40_streaming.md R105). -/
def hashChunks (cs : List (List Byte)) (s : State) : Host.Outcome State Fault Refusal :=
  andThen (andThen (exec .init s) (feedAll cs)) (exec .finalize)

/-- `LOADDIGEST d; SETCNT n; RESUME`, the chunks, FINALIZE (41_resume_export.md R135). -/
def extendChunks (d : Vector Word 8) (n : DWord) (cs : List (List Byte)) (s : State) : Host.Outcome State Fault Refusal :=
  andThen (andThen (exec .resume { s with din := d, cntin := n }) (feedAll cs)) (exec .finalize)

end Sys2Proof.Machine
end

