-- ==== Sys2Proof/Safety.lean ====
section
/-! DEFINITION. The invariants of the block that claims use (10_state.md R26, R27, R29, R34). -/

namespace Sys2Proof.Machine

/-- What holds of every state a run reaches: R34 (a) to (e) of 10_state.md; ERR reads 0 while BUSY = 1 (R27, 20_memory.md
R55); and, of the model's own, no latency is left when nothing is in flight. -/
abbrev State.Inv (s : State) : Prop :=
  s.buf.length ≤ 63 ∧
  s.cnt.toNat + 8 * s.buf.length ≤ 2 ^ 64 - 1 ∧
  (s.phase = .idle → s.buf = []) ∧
  (s.phase = .final → s.buf = []) ∧
  (s.padnb = 0 ∨ 9 ≤ s.padnb.toNat ∧ s.padnb.toNat ≤ 72) ∧
  (s.busy = true → s.err = .ok) ∧
  (s.busy = false → s.latencyLeft = 0)

/-- The padding outputs are those of reset, or the exact padding of one byte length (10_state.md R29, 43_padding.md
R183). -/
def State.PadInv (s : State) : Prop :=
  (s.padnb = 0 ∧ s.padout = Vector.replicate 18 0) ∨
  ∃ l, l < 2 ^ 61 ∧ s.padnb.toNat = (paddingFor l).length ∧ s.padout = bytesWords 18 (paddingFor l)

/-- The platform's reset is what the host side does next. -/
abbrev State.resetNext (s : State) : Prop := s.inputs.head? = some .reset

end Sys2Proof.Machine
end

