-- ==== Sys2Proof/Certificates/Slice0/Obligations.lean ====
section
/-! DEFINITION. The statements for the provers, in the order of OBLIGATIONS.json. Each docstring names the rule of spec/ it
formalises, or says that it is derived. -/

open Sys2Proof Sys2Proof.Machine

/-! ## The command word -/

/-- Decoding an encoded well-formed command gives the command back, for every command and every NBYTES the encoding admits
(30_encoding.md R80 to R84). -/
def Obligations.DecodeOfEncodeIsTheCommand : Prop :=
  ∀ i : Instr, i.wellFormed = true → decode (encode i) = .ok i

/-- A word that decodes is the one encoding of a well-formed command: no two words mean the same (30_encoding.md R83,
R85). -/
def Obligations.EncodeOfDecodeIsTheWord : Prop :=
  ∀ (c : Word) (i : Instr), decode c = .ok i → i.wellFormed = true ∧ encode i = c

/-- R84: the legal words, by the rule's own five conditions, are those that decode; and a word that is not legal, once
accepted, keeps BUSY set until its completion, which changes nothing but ERR. -/
def Obligations.LegalWordsAreThoseThatDecode : Prop :=
  (∀ c : Word,
    (c.extractLsb' 15 17 = 0 ∧ c.extractLsb' 4 4 = 0 ∧ (c.extractLsb' 0 4).toNat ∈ [1, 2, 3, 4, 5] ∧
      (c.extractLsb' 0 4 = 2 → (c.extractLsb' 8 7).toNat ≤ 64) ∧ (c.extractLsb' 0 4 ≠ 2 → c.extractLsb' 8 7 = 0)) ↔
    ∃ i, decode c = .ok i) ∧
  (∀ (s : State) (c : Word), (¬ ∃ i, decode c = .ok i) → s.busy = false →
    (s.regWrite Reg.cmd.offset c).busy = true ∧ (s.regWrite Reg.cmd.offset c).pending = some c) ∧
  (∀ (s : State) (c : Word), (¬ ∃ i, decode c = .ok i) → s.pending = some c → s.latencyLeft = 0 →
    step s = .next { s with err := .illegal, pending := none, latencyLeft := 0 })

/-- The words of R83 and of 95_test_vectors.md V21 decode as those texts say. -/
def Obligations.SpecWordsDecodeAsWritten : Prop :=
  decode 0x00000001 = .ok .init ∧ decode 0x00000002 = .ok (.update 0) ∧ decode 0x00000302 = .ok (.update 3) ∧
  decode 0x00004002 = .ok (.update 64) ∧ decode 0x00000003 = .ok .finalize ∧ decode 0x00000004 = .ok .resume ∧
  decode 0x00000005 = .ok .pad ∧ decode 0x00004102 = .error .nbytesOver64 ∧ decode 0x00000105 = .error .nbytesNotZero ∧
  decode 0x80000002 = .error .res1NotZero ∧ decode 0x000000F2 = .error .res0NotZero ∧ decode 0 = .error .opReserved

/-! ## Steps -/

/-- When the command word in flight decodes to i and the completion is due, the step is exec of i and then BUSY <- 0 and
PENDING <- none. -/
def Obligations.StepRunsTheDecodedCommand : Prop :=
  ∀ (s t : State) (c : Word) (i : Instr), s.pending = some c → s.latencyLeft = 0 → decode c = .ok i →
    exec i s = .next t → step s = .next { t with pending := none, latencyLeft := 0 }

/-- The word stored by withFetchWord is the one the very next step performs. -/
def Obligations.FetchWordIsPerformedNext : Prop :=
  ∀ (s t : State) (i : Instr), i.wellFormed = true → exec i (s.withFetchWord 32 (encode i).toNat) = .next t →
    step (s.withFetchWord 32 (encode i).toNat) = .next { t with pending := none, latencyLeft := 0 }

/-- No state stops the block: every step answers a next state, in every state (derived from R200, "the block does not
stop", and R204 as log entry 5 reads it). -/
def Obligations.EveryStepAnswersANextState : Prop :=
  ∀ s : State, ∃ t, step s = .next t

/-- R206, with R200's first part: every command word completes, and one that ends with a code other than OK has written
ERR and nothing else. -/
def Obligations.FailedCommandWritesErrOnly : Prop :=
  ∀ (s : State) (c : Word), s.pending = some c → s.latencyLeft = 0 →
    ∃ t, step s = .next t ∧ t.busy = false ∧
      (t.err ≠ .ok → t = { s with err := t.err, pending := none, latencyLeft := 0 })

/-- R205: the one code a command reports, as a function of the word and the state: ILLEGAL before NOCTX and FINALIZED
before LENGTH. -/
def Obligations.OneErrorCodeByPriority : Prop :=
  ∀ (s : State) (c : Word), s.pending = some c → s.latencyLeft = 0 →
    ∃ t, step s = .next t ∧
      (legal c = false → t.err = .illegal) ∧
      (legal c = true → c.extractLsb' 0 4 = 2 ∨ c.extractLsb' 0 4 = 3 →
        (s.phase = .idle → t.err = .noctx) ∧ (s.phase = .final → t.err = .finalized)) ∧
      (legal c = true → c.extractLsb' 0 4 = 2 → s.phase = .active →
        t.err = if s.cnt.toNat + 8 * (s.buf.length + (c.extractLsb' 8 7).toNat) > 2 ^ 64 - 1 then .length else .ok) ∧
      (legal c = true → c.extractLsb' 0 4 = 3 → s.phase = .active → t.err = .ok) ∧
      (legal c = true → c.extractLsb' 0 4 = 1 ∨ c.extractLsb' 0 4 = 4 → t.err = .ok) ∧
      (legal c = true → c.extractLsb' 0 4 = 5 → t.err = if s.padlen.toNat ≥ 2 ^ 61 then .length else .ok)

/-- With nothing in flight and no host write to come, the block does nothing (R219, "when BUSY = 0 it does nothing until a
host write"). -/
def Obligations.IdleBlockDoesNothing : Prop :=
  ∀ s : State, s.busy = false → s.latencyLeft = 0 → s.inputs = [] → step s = .next s

/-! ## Reset and invariants -/

/-- R230: the reset state, every element and what the host reads of it. -/
def Obligations.ResetStateIsAsSpecified : Prop :=
  (∀ i : Fin 8, State.reset.v.get i = 0 ∧ State.reset.din.get i = 0) ∧ (∀ i : Fin 16, State.reset.msg.get i = 0) ∧
  (∀ i : Fin 18, State.reset.padout.get i = 0) ∧ State.reset.cnt = 0 ∧ State.reset.buf = [] ∧
  State.reset.phase = .idle ∧ State.reset.busy = false ∧ State.reset.pending = none ∧ State.reset.err = .ok ∧
  State.reset.ovr = false ∧ State.reset.cntin = 0 ∧ State.reset.padlen = 0 ∧ State.reset.padnb = 0 ∧
  (∀ off : Offset, State.reset.regRead off = if off.toNat / 4 = 0 then 0x534D3301 else 0)

/-- R231, with R230: the reset input, whether or not a command is in flight, discards the command and leaves the reset
state; the host's past answers and later inputs stay
(log entries 7 and 9). -/
def Obligations.ResetInputDiscardsTheCommandInFlight : Prop :=
  ∀ (s : State) (rest : List Input), s.inputs = .reset :: rest → (s.pending = none ∨ s.latencyLeft ≠ 0) →
    step s = .next { State.reset with
      latencies := s.latencies, inputs := rest, responses := s.responses, draws := s.draws }

/-- The invariants hold at reset: R34 (a) to (e) and R27's ERR clause (Inv), R29 with 43_padding.md R183 (PadInv), and
Inv's last clause, the model's own: latencyLeft is 0 at reset by the model's choice (log entries 2 and 9). -/
def Obligations.ResetStateMeetsTheInvariants : Prop :=
  State.reset.Inv ∧ State.reset.PadInv

/-- R34 (a) to (e), ERR = 0 while busy (R27), and the model's own latency clause (log entry 2): every step keeps them,
from every state that meets them. -/
def Obligations.EveryStepKeepsTheInvariant : Prop :=
  ∀ s t : State, s.Inv → step s = .next t → t.Inv

/-- The padding outputs always are those of reset or one byte length's exact padding (R29, 43_padding.md R183). -/
def Obligations.EveryStepKeepsPaddingOutputsExact : Prop :=
  ∀ s t : State, s.PadInv → step s = .next t → t.PadInv

/-! ## The five commands -/

/-- R101: INIT, in every state. -/
def Obligations.InitStartsAContext : Prop :=
  decode 0x00000001 = .ok .init ∧
  ∀ s : State, exec .init s = .next { s with
    v := #v[0x7380166F, 0x4914B2B9, 0x172442D7, 0xDA8A0600, 0xA96F30BC, 0x163138AA, 0xE38DEE4D, 0xB0FB0E4E]
    cnt := 0, buf := [], phase := .active, err := .ok }

/-- R102: UPDATE n, and no UPDATE of more than 64 bytes. The chunk's byte k is MSG[k div 4][31 - 8(k mod 4) : 24 - 8(k
mod 4)]; the range test is on exact integers; |BUF| stays below 64. -/
def Obligations.UpdateAbsorbsTheChunk : Prop :=
  (∀ n : BitVec 7, 64 < n.toNat → decode (0x00000002 ||| (n.setWidth 32 <<< 8)) = .error .nbytesOver64) ∧
  ∀ (s : State) (n : BitVec 7), n.toNat ≤ 64 →
    decode (0x00000002 ||| (n.setWidth 32 <<< 8)) = .ok (.update n) ∧
    (s.phase = .idle → exec (.update n) s = .next { s with err := .noctx }) ∧
    (s.phase = .final → exec (.update n) s = .next { s with err := .finalized }) ∧
    (s.phase = .active → s.cnt.toNat + 8 * (s.buf.length + n.toNat) > 2 ^ 64 - 1 →
      exec (.update n) s = .next { s with err := .length }) ∧
    (s.phase = .active → s.cnt.toNat + 8 * (s.buf.length + n.toNat) ≤ 2 ^ 64 - 1 →
      let chunk := (List.range n.toNat).map fun k => (s.msg.toList.getD (k / 4) 0).extractLsb' (24 - 8 * (k % 4)) 8
      let b := s.buf ++ chunk
      ∃ t, exec (.update n) s = .next t ∧
        (b.length < 64 → t = { s with buf := b, err := .ok }) ∧
        (64 ≤ b.length → t = { s with v := cf s.v (b.take 64), cnt := s.cnt + 512, buf := b.drop 64, err := .ok } ∧
          t.cnt.toNat = s.cnt.toNat + 512) ∧
        (s.buf.length ≤ 63 → t.buf.length ≤ 63))

/-- R104: FINALIZE. One compression up to 55 buffered bytes, two from 56 on; the length field and CNT are the exact
total. -/
def Obligations.FinalizePadsAndEmitsTheDigest : Prop :=
  decode 0x00000003 = .ok .finalize ∧
  ∀ s : State,
    (s.phase = .idle → exec .finalize s = .next { s with err := .noctx }) ∧
    (s.phase = .final → exec .finalize s = .next { s with err := .finalized }) ∧
    (s.phase = .active → s.buf.length ≤ 63 → s.cnt.toNat + 8 * s.buf.length ≤ 2 ^ 64 - 1 →
      ∃ total : DWord, total.toNat = s.cnt.toNat + 8 * s.buf.length ∧
        (s.buf.length < 56 → exec .finalize s = .next { s with
          v := cf s.v (s.buf ++ [0x80] ++ List.replicate (55 - s.buf.length) 0 ++ be64 total)
          cnt := total, buf := [], phase := .final, err := .ok }) ∧
        (56 ≤ s.buf.length → exec .finalize s = .next { s with
          v := cf (cf s.v (s.buf ++ [0x80] ++ List.replicate (63 - s.buf.length) 0)) (List.replicate 56 0 ++ be64 total)
          cnt := total, buf := [], phase := .final, err := .ok }))

/-- R130: RESUME, in every state and for every digest and count; and its corner CNTIN = 2^64 - 1, after which every
UPDATE n with n from 1 to 64, the most that R84 lets an UPDATE have, fails with LENGTH, and UPDATE 0 succeeds. -/
def Obligations.ResumeInstallsDigestAndCount : Prop :=
  decode 0x00000004 = .ok .resume ∧
  (∀ s : State, exec .resume s = .next { s with
    v := s.din, cnt := s.cntin, buf := [], phase := .active, err := .ok }) ∧
  (∀ s : State, s.cntin.toNat = 2 ^ 64 - 1 → ∃ t, exec .resume s = .next t ∧
    (∀ n : BitVec 7, 1 ≤ n.toNat → n.toNat ≤ 64 → exec (.update n) t = .next { t with err := .length }) ∧
    exec (.update 0) t = .next t)

/-- R180: PAD, in every phase, with the output area of R64: byte k of PADOUT is the padding's byte k, and 0 past its
end; and the rule's corner lengths. -/
def Obligations.PadWritesTheExactPadding : Prop :=
  decode 0x00000005 = .ok .pad ∧
  ∀ s : State,
    (s.padlen.toNat ≥ 2 ^ 61 → exec .pad s = .next { s with err := .length }) ∧
    (s.padlen.toNat < 2 ^ 61 → ∃ nb out, exec .pad s = .next { s with padnb := nb, padout := out, err := .ok } ∧
      nb.toNat = (paddingFor s.padlen.toNat).length ∧ 9 ≤ nb.toNat ∧ nb.toNat ≤ 72 ∧
      (s.padlen = 0 → nb.toNat = 64) ∧ (s.padlen.toNat % 64 = 55 → nb.toNat = 9) ∧
      (s.padlen.toNat % 64 = 56 → nb.toNat = 72) ∧
      ∀ k, k < 72 → (out.toList.getD (k / 4) 0).extractLsb' (24 - 8 * (k % 4)) 8 =
        if k < nb.toNat then (paddingFor s.padlen.toNat).getD k 0 else 0)

/-- The frame of all five commands: no command writes an input register, OVR, PENDING or anything outside the block
(derived from R28 and the commands' rules). (It holds of the ill-formed UPDATE of log entry 10 too.) -/
def Obligations.CommandsKeepInputRegisters : Prop :=
  ∀ (i : Instr) (s : State), ∃ t, exec i s = .next t ∧
    t.cntin = s.cntin ∧ t.din = s.din ∧ t.msg = s.msg ∧ t.padlen = s.padlen ∧ t.ovr = s.ovr ∧ t.pending = s.pending ∧
    t.latencyLeft = s.latencyLeft ∧ t.latencies = s.latencies ∧ t.inputs = s.inputs ∧ t.responses = s.responses ∧
    t.draws = s.draws

/-- R29 at the level of commands: a hash command neither reads nor writes PADNB and PADOUT, PAD neither reads nor writes
V, CNT, BUF and PHASE, and a PAD that fails keeps PADNB and PADOUT. (It holds of the ill-formed UPDATE of log entry 10
too.) -/
def Obligations.PaddingAndContextAreSeparate : Prop :=
  (∀ (i : Instr) (s : State) (nb : BitVec 7) (out : Vector Word 18), i ≠ .pad →
    ∃ t, exec i s = .next t ∧ t.padnb = s.padnb ∧ t.padout = s.padout ∧
      exec i { s with padnb := nb, padout := out } = .next { t with padnb := nb, padout := out }) ∧
  (∀ (s : State) (v : Vector Word 8) (cnt : DWord) (buf : List Byte) (phase : Phase),
    ∃ t, exec .pad s = .next t ∧ t.v = s.v ∧ t.cnt = s.cnt ∧ t.buf = s.buf ∧ t.phase = s.phase ∧
      (t.err ≠ .ok → t.padnb = s.padnb ∧ t.padout = s.padout) ∧
      exec .pad { s with v := v, cnt := cnt, buf := buf, phase := phase } =
        .next { t with v := v, cnt := cnt, buf := buf, phase := phase })

/-- No command's behaviour depends on ERR or OVR, and only UPDATE's and FINALIZE's on PHASE (R32).
(It holds of the ill-formed UPDATE of log entry 10 too.) -/
def Obligations.CommandsIgnoreErrAndOvr : Prop :=
  (∀ (i : Instr) (s : State) (e : ErrCode) (o : Bool), ∃ t, exec i s = .next t ∧
    exec i { s with err := e, ovr := o } = .next { t with ovr := o }) ∧
  (∀ (i : Instr) (s : State) (p : Phase), i = .init ∨ i = .resume → exec i { s with phase := p } = exec i s) ∧
  (∀ (s : State) (p : Phase), ∃ t, exec .pad s = .next t ∧
    exec .pad { s with phase := p } = .next { t with phase := p })

/-- Two states with the same context, MSG and NBYTES: UPDATE and FINALIZE give the same context and code, whatever else
differs (derived from R102 and R104).
(It holds of the ill-formed UPDATE of log entry 10 too.) -/
def Obligations.HashCommandsReadOnlyContextAndMsg : Prop :=
  ∀ (i : Instr) (s s' : State), i = .finalize ∨ (∃ n, i = .update n) →
    s.v = s'.v → s.cnt = s'.cnt → s.buf = s'.buf → s.phase = s'.phase → s.msg = s'.msg →
    ∃ t t', exec i s = .next t ∧ exec i s' = .next t' ∧
      t.v = t'.v ∧ t.cnt = t'.cnt ∧ t.buf = t'.buf ∧ t.phase = t'.phase ∧ t.err = t'.err

/-- The only steps that change V: a reset, or the completion of INIT, of RESUME, of FINALIZE, or of an UPDATE that fills
the buffer to 64 bytes (R22). -/
def Obligations.OnlyContextCommandsChangeTheChainingState : Prop :=
  ∀ s t : State, step s = .next t → t.v ≠ s.v →
    (s.coreTurn = false ∧ s.resetNext) ∨
    ∃ c i, s.coreTurn = true ∧ s.pending = some c ∧ decode c = .ok i ∧
      (i = .init ∨ i = .resume ∨ i = .finalize ∨ ∃ n, i = .update n ∧ 64 ≤ s.buf.length + n.toNat)

/-- The only steps that change the padding outputs: a reset, or a completion of PAD (R29). -/
def Obligations.OnlyPadChangesThePaddingOutputs : Prop :=
  ∀ s t : State, step s = .next t → t.padnb ≠ s.padnb ∨ t.padout ≠ s.padout →
    (s.coreTurn = false ∧ s.resetNext) ∨ (s.coreTurn = true ∧ s.pending = some 0x00000005 ∧ t.err = .ok)

/-- While a command is in flight no step but a reset changes an input register, and none replaces the command (R73). -/
def Obligations.InputsAreFixedWhileBusy : Prop :=
  ∀ s t : State, s.busy = true → step s = .next t → ¬ (s.coreTurn = false ∧ s.resetNext) →
    t.cntin = s.cntin ∧ t.din = s.din ∧ t.msg = s.msg ∧ t.padlen = s.padlen ∧
    (t.pending = s.pending ∨ s.coreTurn = true ∧ t.pending = none)

/-! ## The register window -/

/-- R55: the fields of STATUS. -/
def Obligations.StatusWordHasItsFields : Prop :=
  ∀ s : State,
    s.status.extractLsb' 0 1 = (if s.busy then 1 else 0) ∧
    s.status.extractLsb' 1 2 = (match s.phase with | .idle => 0 | .active => 1 | .final => 2) ∧
    s.status.extractLsb' 3 1 = (if s.ovr then 1 else 0) ∧
    s.status.extractLsb' 4 4 =
      (match s.err with | .ok => 0 | .illegal => 1 | .noctx => 2 | .finalized => 3 | .length => 4) ∧
    s.status.extractLsb' 8 24 = 0

/-- The register map R52 with the contents of R53 to R64, read while BUSY = 0, and the reserved offsets (R65). -/
def Obligations.RegisterMapReadsEachRegister : Prop :=
  ∀ s : State, s.busy = false →
    s.regRead 0x00 = 0x534D3301 ∧ s.regRead 0x04 = 0 ∧ s.regRead 0x08 = s.status ∧
    (s.buf.length ≤ 63 → (s.regRead 0x0C).toNat = s.buf.length) ∧
    (s.regRead 0x10).toNat = s.cnt.toNat % 2 ^ 32 ∧ (s.regRead 0x14).toNat = s.cnt.toNat / 2 ^ 32 ∧
    (s.regRead 0x18).toNat = s.cntin.toNat % 2 ^ 32 ∧ (s.regRead 0x1C).toNat = s.cntin.toNat / 2 ^ 32 ∧
    (∀ i : Fin 8, s.regRead (0x20 + 4 * BitVec.ofNat 8 i) = s.v.get i) ∧
    (∀ i : Fin 8, s.regRead (0x40 + 4 * BitVec.ofNat 8 i) = s.din.get i) ∧
    (∀ i : Fin 16, s.regRead (0x60 + 4 * BitVec.ofNat 8 i) = s.msg.get i) ∧
    (s.regRead 0xA0).toNat = s.padlen.toNat % 2 ^ 32 ∧ (s.regRead 0xA4).toNat = s.padlen.toNat / 2 ^ 32 ∧
    (s.regRead 0xA8).toNat = s.padnb.toNat ∧
    (∀ i : Fin 18, s.regRead (0xB0 + 4 * BitVec.ofNat 8 i) = s.padout.get i) ∧
    s.regRead 0xAC = 0 ∧ s.regRead 0xF8 = 0 ∧ s.regRead 0xFC = 0

/-- R67 while BUSY = 1: ID, CMD, STATUS, the input registers and the reserved offsets read as they do when the block is
not busy; BUFLEN, CNT, STATE, PADNB and PADOUT read the free value of the current draw, and the next such read takes
another (the free value is the model's, log entry 3). -/
def Obligations.ReadsWhileBusyAreValidOrFree : Prop :=
  ∀ s : State, s.busy = true →
    s.regRead 0x00 = 0x534D3301 ∧ s.regRead 0x04 = 0 ∧ s.regRead 0x08 = s.status ∧
    (s.regRead 0x18).toNat = s.cntin.toNat % 2 ^ 32 ∧ (s.regRead 0x1C).toNat = s.cntin.toNat / 2 ^ 32 ∧
    (∀ i : Fin 8, s.regRead (0x40 + 4 * BitVec.ofNat 8 i) = s.din.get i) ∧
    (∀ i : Fin 16, s.regRead (0x60 + 4 * BitVec.ofNat 8 i) = s.msg.get i) ∧
    (s.regRead 0xA0).toNat = s.padlen.toNat % 2 ^ 32 ∧ (s.regRead 0xA4).toNat = s.padlen.toNat / 2 ^ 32 ∧
    s.regRead 0xAC = 0 ∧ s.regRead 0xF8 = 0 ∧ s.regRead 0xFC = 0 ∧
    ∀ off : Offset, off ∈ [0x0C, 0x10, 0x14, 0xA8] ∨ (∃ i : Fin 8, off = 0x20 + 4 * BitVec.ofNat 8 i) ∨
        (∃ i : Fin 18, off = 0xB0 + 4 * BitVec.ofNat 8 i) →
      s.regRead off = Config.busyRead s.draws ∧ s.afterRead off = { s with draws := s.draws + 1 }

/-- A host read, busy or not, gives the host the value of RegRead and changes nothing of the block (R67, R69). One turn
of WAIT (log entry 14) is such a read of STATUS, and consumes the WAIT exactly when bit 0 of the answer is 0 (R88). -/
def Obligations.HostReadAnswersAndChangesNothing : Prop :=
  (∀ (s : State) (off : Offset) (rest : List Input), s.inputs = .read 32 off :: rest → off.toNat % 4 = 0 →
    (s.pending = none ∨ s.latencyLeft ≠ 0) →
    ∃ draws, step s = .next { s with
      inputs := rest, responses := s.responses ++ [.value off (s.regRead off)], latencyLeft := s.latencyLeft - 1
      draws := draws }) ∧
  (∀ (s : State) (rest : List Input), s.inputs = .poll :: rest → (s.pending = none ∨ s.latencyLeft ≠ 0) →
    step s = .next { s with
      inputs := if s.status.extractLsb' 0 1 = 0 then rest else .poll :: rest
      responses := s.responses ++ [.value 0x08 s.status], latencyLeft := s.latencyLeft - 1 })

/-- A write to CMD while BUSY = 0 is accepted: OVR and ERR are cleared, PENDING and BUSY set, nothing else of the block
changes; every latency the platform gives is possible (R26, R27, R68, R241). -/
def Obligations.CommandWriteIsAcceptedWhenIdle : Prop :=
  ∀ (s : State) (c : Word) (rest : List Input), s.inputs = .write 32 0x04 c :: rest → s.busy = false →
    ∃ latency latencies draws, step s = .next { s with
      inputs := rest, ovr := false, err := .ok, pending := some c, latencyLeft := latency, latencies := latencies
      draws := draws } ∧
      ∀ k l, s.latencies = k :: l → latency = k ∧ latencies = l

/-- R209: a write to CMD or to an input register while BUSY = 1 is dropped and sets OVR; the command in flight and ERR
stay; and OVR stays 1 until a command is accepted (or the block is reset). -/
def Obligations.WritesWhileBusyAreDropped : Prop :=
  (∀ (s : State) (off : Offset) (w : Word) (rest : List Input), s.inputs = .write 32 off w :: rest →
    s.busy = true → s.latencyLeft ≠ 0 →
    off ∈ [0x04, 0x18, 0x1C, 0xA0, 0xA4] ∨ (∃ i : Fin 8, off = 0x40 + 4 * BitVec.ofNat 8 i) ∨
      (∃ i : Fin 16, off = 0x60 + 4 * BitVec.ofNat 8 i) →
    step s = .next { s with inputs := rest, ovr := true, latencyLeft := s.latencyLeft - 1 }) ∧
  ∀ s t : State, s.ovr = true → step s = .next t → t.ovr = false →
    s.coreTurn = false ∧ (s.resetNext ∨
      ∃ c rest, s.inputs = .write 32 0x04 c :: rest ∧ s.busy = false ∧ t.pending = some c)

/-- Writes to the input registers while BUSY = 0, each register its own word or half, and nothing else (R58, R60, R61,
R62, R68). -/
def Obligations.InputRegisterWritesStoreTheirWord : Prop :=
  ∀ (s : State) (w : Word), s.busy = false →
    (∃ x : DWord, s.regWrite 0x18 w = { s with cntin := x } ∧
      x.toNat = s.cntin.toNat / 2 ^ 32 * 2 ^ 32 + w.toNat) ∧
    (∃ x : DWord, s.regWrite 0x1C w = { s with cntin := x } ∧ x.toNat = w.toNat * 2 ^ 32 + s.cntin.toNat % 2 ^ 32) ∧
    (∀ i : Fin 8, ∃ d, s.regWrite (0x40 + 4 * BitVec.ofNat 8 i) w = { s with din := d } ∧
      ∀ j : Fin 8, d.get j = if j = i then w else s.din.get j) ∧
    (∀ i : Fin 16, ∃ m, s.regWrite (0x60 + 4 * BitVec.ofNat 8 i) w = { s with msg := m } ∧
      ∀ j : Fin 16, m.get j = if j = i then w else s.msg.get j) ∧
    (∃ x : DWord, s.regWrite 0xA0 w = { s with padlen := x } ∧
      x.toNat = s.padlen.toNat / 2 ^ 32 * 2 ^ 32 + w.toNat) ∧
    (∃ x : DWord, s.regWrite 0xA4 w = { s with padlen := x } ∧ x.toNat = w.toNat * 2 ^ 32 + s.padlen.toNat % 2 ^ 32)

/-- A host write of 32 bits at a multiple of 4 is RegWrite. -/
def Obligations.HostWritePerformsRegWrite : Prop :=
  ∀ (s : State) (off : Offset) (w : Word) (rest : List Input), s.inputs = .write 32 off w :: rest →
    off.toNat % 4 = 0 → (s.pending = none ∨ s.latencyLeft ≠ 0) →
    step s = .next (State.regWrite { s with inputs := rest, latencyLeft := s.latencyLeft - 1 } off w)

/-- R65: a write to a reserved offset or a read-only register is ignored, busy or not, with no error and no OVR; reserved
offsets read 0, busy or not. -/
def Obligations.ReadOnlyAndReservedWritesAreIgnored : Prop :=
  ∀ (s : State) (off : Offset) (w : Word),
    (off ∈ [0xAC, 0xF8, 0xFC] → s.regRead off = 0 ∧ s.regWrite off w = s) ∧
    (off ∈ [0x00, 0x08, 0x0C, 0x10, 0x14, 0xA8] ∨ (∃ i : Fin 8, off = 0x20 + 4 * BitVec.ofNat 8 i) ∨
      (∃ i : Fin 18, off = 0xB0 + 4 * BitVec.ofNat 8 i) → s.regWrite off w = s)

/-- An access of another width or at an offset that is no multiple of 4 changes nothing of the block, not ERR, not OVR,
not a register; the host's access is faulted and the host is told (R51, R204; that the run goes on is the model's
reading, log entry 5). -/
def Obligations.RefusedAccessChangesNothing : Prop :=
  ∀ (s : State) (width : Nat) (off : Offset) (w : Word) (rest : List Input), width ≠ 32 ∨ off.toNat % 4 ≠ 0 →
    busRead width off s = .fault (.busError off) ∧ busWrite width off w s = .fault (.busError off) ∧
    (s.inputs = .read width off :: rest ∨ s.inputs = .write width off w :: rest →
      (s.pending = none ∨ s.latencyLeft ≠ 0) →
      step s = .next { s with
        inputs := rest, responses := s.responses ++ [.busError off], latencyLeft := s.latencyLeft - 1 })

/-- The window is the 256 bytes from SM3_BASE: the block's offsets are exactly the bus addresses there, and any other
address is none of the block's (R50, R51; the placing is the model's, log entry 6). -/
def Obligations.WindowIsTheTwoHundredFiftySixBytesFromBase : Prop :=
  (∀ off : Offset, windowOffset (Config.sm3Base + off.toNat) = some off) ∧
  ∀ addr : Nat, windowOffset addr = none ↔ addr < Config.sm3Base ∨ Config.sm3Base + 256 ≤ addr

/-- Every WAIT ends (R88, R241). With nothing in flight its first read is its last. With a command in flight it ends two
steps after the latency left: the reads before the completion answer the STATUS of before, bit 0 set; the completion
step leaves u; the last read answers the STATUS of u, bit 0 clear; and nothing else changes (the latency count is log
entry 2, WAIT as one input log entry 14). -/
def Obligations.WaitEndsWhenTheCommandCompletes : Prop :=
  ∀ (s : State) (rest : List Input), s.inputs = .poll :: rest →
    (s.busy = false → s.status.extractLsb' 0 1 = 0 ∧
      step s = .next { s with
        inputs := rest, responses := s.responses ++ [.value 0x08 s.status], latencyLeft := s.latencyLeft - 1 }) ∧
    (s.busy = true → s.status.extractLsb' 0 1 = 1 ∧
      ∃ u, step { s with latencyLeft := 0 } = .next u ∧ u.busy = false ∧ u.status.extractLsb' 0 1 = 0 ∧
        Host.Core.run Sys2Proof.core (s.latencyLeft + 2) s = .next { u with
          inputs := rest
          responses := s.responses ++ List.replicate s.latencyLeft (.value 0x08 s.status) ++ [.value 0x08 u.status] })

/-! ## The compression function -/

/-- R150: ROTL by the rule's formula; it moves bit k to bit (k + n) mod 32, and is the identity on multiples of 32. -/
def Obligations.RotationIsLeftRotation : Prop :=
  ∀ (x : Word) (n : Nat),
    (n % 32 ≠ 0 → rotl x n = (x <<< (n % 32)) ||| (x >>> (32 - n % 32))) ∧ (n % 32 = 0 → rotl x n = x) ∧
    rotl x n = x.rotateLeft n ∧ ∀ k, k < 32 → (rotl x n).getLsbD ((k + n) % 32) = x.getLsbD k

/-- R157, R158 and R159: the 16 message words, the expansion and the auxiliary words, of every block. -/
def Obligations.MessageExpansionFollowsItsRecurrence : Prop :=
  ∀ blk : List Byte, blk.length = 64 → (expandedWords blk).length = 68 ∧
    (∀ j, j < 16 → wAt (expandedWords blk) j =
      blk.getD (4 * j) 0 ++ blk.getD (4 * j + 1) 0 ++ blk.getD (4 * j + 2) 0 ++ blk.getD (4 * j + 3) 0) ∧
    (∀ j, 16 ≤ j → j ≤ 67 →
      let w := wAt (expandedWords blk)
      let x := w (j - 16) ^^^ w (j - 9) ^^^ (w (j - 3)).rotateLeft 15
      w j = (x ^^^ x.rotateLeft 15 ^^^ x.rotateLeft 23) ^^^ (w (j - 13)).rotateLeft 7 ^^^ w (j - 6)) ∧
    ∀ j, j ≤ 63 → w1At (expandedWords blk) j = wAt (expandedWords blk) j ^^^ wAt (expandedWords blk) (j + 4)

/-- R160, with R151 and R153 to R155 written out: one round, in both ranges of j. -/
def Obligations.RoundFollowsItsDataFlow : Prop :=
  ∀ (w : List Word) (j : Nat) (r : Work), j ≤ 63 →
    let t := if j ≤ 15 then (0x79CC4519 : Word).rotateLeft j else (0x7A879D8A : Word).rotateLeft j
    let f := if j ≤ 15 then r.a ^^^ r.b ^^^ r.c else (r.a &&& r.b) ||| (r.a &&& r.c) ||| (r.b &&& r.c)
    let g := if j ≤ 15 then r.e ^^^ r.f ^^^ r.g else (r.e &&& r.f) ||| (~~~r.e &&& r.g)
    let ss1 := (r.a.rotateLeft 12 + r.e + t).rotateLeft 7
    let ss2 := ss1 ^^^ r.a.rotateLeft 12
    let tt1 := f + r.d + ss2 + (wAt w j ^^^ wAt w (j + 4))
    let tt2 := g + r.h + ss1 + wAt w j
    compressionRound w j r =
      { a := tt1, b := r.a, c := r.b.rotateLeft 9, d := r.c
        e := tt2 ^^^ tt2.rotateLeft 9 ^^^ tt2.rotateLeft 17, f := r.e, g := r.f.rotateLeft 19, h := r.g }

/-- R161: CF is the 64 rounds in increasing order from V, XORed into V. -/
def Obligations.CompressionRunsSixtyFourRounds : Prop :=
  ∀ (v : Vector Word 8) (blk : List Byte), ∃ r : Nat → Work,
    r 0 = { a := v[0], b := v[1], c := v[2], d := v[3], e := v[4], f := v[5], g := v[6], h := v[7] } ∧
    (∀ j, j < 64 → r (j + 1) = compressionRound (expandedWords blk) j (r j)) ∧
    (cf v blk).toList = [(r 64).a ^^^ v[0], (r 64).b ^^^ v[1], (r 64).c ^^^ v[2], (r 64).d ^^^ v[3],
      (r 64).e ^^^ v[4], (r 64).f ^^^ v[5], (r 64).g ^^^ v[6], (r 64).h ^^^ v[7]]

/-! ## Padding -/

/-- R181: the padding, its length, and z as the smallest number that fills the block. -/
def Obligations.PaddingFillsTheBlockExactly : Prop :=
  ∀ l : Nat, l < 2 ^ 61 → ∃ z : Nat, (z : Int) = (55 - ((l % 64 : Nat) : Int)) % 64 ∧ z ≤ 63 ∧
    (∃ bits : DWord, bits.toNat = 8 * l ∧ paddingFor l = [0x80] ++ List.replicate z 0 ++ be64 bits) ∧
    (paddingFor l).length = 9 + z ∧ (l + 1 + z + 8) % 64 = 0 ∧ ∀ z', (l + 1 + z' + 8) % 64 = 0 → z ≤ z'

/-- The padding laws (a) to (e) (R182). -/
def Obligations.PaddingLaws : Prop :=
  ∀ l : Nat, l < 2 ^ 61 →
    (l + (paddingFor l).length) % 64 = 0 ∧
    ((paddingFor l).drop ((paddingFor l).length - 8)).foldl (fun n b => n * 256 + b.toNat) 0 = 8 * l ∧
    9 ≤ (paddingFor l).length ∧ (paddingFor l).length ≤ 72 ∧
    (paddingFor l)[0]? = some 0x80 ∧ (∀ k, 1 ≤ k → k < (paddingFor l).length - 8 → (paddingFor l)[k]? = some 0) ∧
    ∀ l', l' < 2 ^ 61 → l' % 64 = l % 64 → (paddingFor l').length = (paddingFor l).length

/-- The claimed count of a length extension depends on the length only through the number of padded blocks (R136). -/
def Obligations.ClaimedCountIsThePaddedBlocks : Prop :=
  ∀ l : Nat, 8 * (l + (paddingFor l).length) = 512 * ((l + 9 + 63) / 64)

/-! ## Messages -/

/-- Feeding chunks to an ACTIVE context leaves all whole blocks of BUF ++ message compressed, in arrival order, and the
rest in BUF (derived from R102). -/
def Obligations.FeedingCompressesWholeBlocksInOrder : Prop :=
  ∀ (cs : List (List Byte)) (s : State), s.phase = .active → s.buf.length ≤ 63 → (∀ c ∈ cs, c.length ≤ 64) →
    s.cnt.toNat + 8 * (s.buf.length + cs.flatten.length) ≤ 2 ^ 64 - 1 →
    ∃ t, feedAll cs s = .next t ∧
      t.v = compressWhole s.v (s.buf ++ cs.flatten) ∧
      t.cnt.toNat = s.cnt.toNat + 512 * ((s.buf.length + cs.flatten.length) / 64) ∧
      t.buf = (s.buf ++ cs.flatten).drop (64 * ((s.buf.length + cs.flatten.length) / 64)) ∧ t.phase = .active

/-- Chunking invariance (R103): two ways to split one message into chunks of 0 to 64 bytes leave the same V, CNT and
BUF. -/
def Obligations.ChunkingDoesNotMatter : Prop :=
  ∀ (cs ds : List (List Byte)) (s : State), s.phase = .active → s.buf.length ≤ 63 → cs.flatten = ds.flatten →
    (∀ c ∈ cs, c.length ≤ 64) → (∀ c ∈ ds, c.length ≤ 64) →
    s.cnt.toNat + 8 * (s.buf.length + cs.flatten.length) ≤ 2 ^ 64 - 1 →
    ∃ t u, feedAll cs s = .next t ∧ feedAll ds s = .next u ∧ t.v = u.v ∧ t.cnt = u.cnt ∧ t.buf = u.buf

/-- When CNT is a multiple of 512, FINALIZE compresses BUF with exactly the padding that padding_for computes for the
total length (R105, R184). -/
def Obligations.FinalizeAgreesWithThePaddingCalculator : Prop :=
  ∀ s : State, s.phase = .active → s.buf.length ≤ 63 → s.cnt.toNat + 8 * s.buf.length ≤ 2 ^ 64 - 1 →
    s.cnt.toNat % 512 = 0 →
    ∃ t, exec .finalize s = .next t ∧
      t.v = compressWhole s.v (s.buf ++ paddingFor ((s.cnt.toNat + 8 * s.buf.length) / 8))

/-- INIT, a message of fewer than 2^61 bytes in any chunks, FINALIZE: STATE is the message's SM3 digest, CNT its length in
bits (R105). -/
def Obligations.HashingAMessageGivesItsDigest : Prop :=
  ∀ (cs : List (List Byte)) (s : State), (∀ c ∈ cs, c.length ≤ 64) → cs.flatten.length < 2 ^ 61 →
    ∃ t, hashChunks cs s = .next t ∧ t.v = sm3 cs.flatten ∧ t.cnt.toNat = 8 * cs.flatten.length ∧ t.buf = [] ∧
      t.phase = .final ∧ t.err = .ok

/-- The length-extension law (R135). -/
def Obligations.LengthExtensionLaw : Prop :=
  ∀ (p : List Byte) (xs : List (List Byte)) (s : State), p.length < 2 ^ 61 → (∀ c ∈ xs, c.length ≤ 64) →
    8 * (p.length + (paddingFor p.length).length + xs.flatten.length) ≤ 2 ^ 64 - 1 →
    ∃ t, extendChunks (sm3 p) (BitVec.ofNat 64 (8 * (p.length + (paddingFor p.length).length))) xs s = .next t ∧
      t.v = sm3 (p ++ paddingFor p.length ++ xs.flatten) ∧ t.err = .ok

/-- Export and resume at a block boundary: whatever state t the block is in by then, RESUME of the exported V and CNT
restores V, CNT, BUF and PHASE (R132); the exported 32 bytes are the very words to load (R131). -/
def Obligations.ExportThenResumeRestoresTheContext : Prop :=
  ∀ s t : State, s.phase = .active → s.buf = [] →
    s.digest.length = 32 ∧ bytesWords 8 s.digest = s.v ∧
    ∃ u, exec .resume { t with din := bytesWords 8 s.digest, cntin := s.cnt } = .next u ∧
      u.v = s.v ∧ u.cnt = s.cnt ∧ u.buf = s.buf ∧ u.phase = s.phase

/-- Export and resume inside a block: RESUME leaves BUF empty, and feeding the buffered bytes again restores V, CNT and
BUF (R133). -/
def Obligations.ResumeInsideABlockNeedsRefeeding : Prop :=
  ∀ s t : State, s.phase = .active → s.buf.length ≤ 63 → s.cnt.toNat + 8 * s.buf.length ≤ 2 ^ 64 - 1 →
    ∃ u w, exec .resume { t with din := s.v, cntin := s.cnt } = .next u ∧ u.buf = [] ∧
      feed s.buf u = .next w ∧ w.v = s.v ∧ w.cnt = s.cnt ∧ w.buf = s.buf ∧ w.phase = .active ∧ w.err = .ok

/-! ## The host notation -/

/-- LOADMSG, LOADDIGEST, SETCNT and SETPADLEN as bus writes, while BUSY = 0: LOADMSG leaves State.loadMsg, from which
UPDATE |c| takes exactly c; the others leave DIN, CNTIN and PADLEN; and nothing else of the block changes (R88). -/
def Obligations.HostNotationLoadsItsRegisters : Prop :=
  ∀ (s : State) (rest : List Input), s.busy = false →
    (∀ c : List Byte, c.length ≤ 64 → s.inputs = loadMsgOps c ++ rest →
      Host.Core.run Sys2Proof.core (loadMsgOps c).length s = .next { s.loadMsg c with
        inputs := rest, latencyLeft := s.latencyLeft - (loadMsgOps c).length } ∧
      (s.loadMsg c).chunk c.length = c) ∧
    (∀ d : List Byte, d.length = 32 → s.inputs = loadDigestOps d ++ rest →
      Host.Core.run Sys2Proof.core 8 s = .next { s with
        din := bytesWords 8 d, inputs := rest, latencyLeft := s.latencyLeft - 8 }) ∧
    (∀ v : DWord, s.inputs = setCntOps v ++ rest →
      Host.Core.run Sys2Proof.core 2 s = .next { s with cntin := v, inputs := rest, latencyLeft := s.latencyLeft - 2 }) ∧
    (∀ l : DWord, s.inputs = setPadLenOps l ++ rest →
      Host.Core.run Sys2Proof.core 2 s = .next { s with padlen := l, inputs := rest, latencyLeft := s.latencyLeft - 2 })

/-- READDIGEST and CHECK, while BUSY = 0: the eight answers are V, whose be32 are the digest's bytes, CHECK's answer is
STATUS, and nothing of the block changes (R88, 20_memory.md R59). -/
def Obligations.ReadDigestAnswersTheChainingState : Prop :=
  ∀ (s : State) (rest : List Input), s.busy = false →
    (s.inputs = readDigestOps ++ rest →
      Host.Core.run Sys2Proof.core 8 s = .next { s with
        inputs := rest, latencyLeft := s.latencyLeft - 8
        responses := s.responses ++ (List.finRange 8).map fun i => .value (0x20 + 4 * BitVec.ofNat 8 i) (s.v.get i) } ∧
      s.digest = (List.finRange 8).flatMap fun i => be32 (s.v.get i)) ∧
    (s.inputs = checkOps ++ rest →
      step s = .next { s with
        inputs := rest, responses := s.responses ++ [.value 0x08 s.status], latencyLeft := s.latencyLeft - 1 })

/-- EXEC i, while BUSY = 0, for every well-formed command and every latency: the run ends in exec of i with OVR cleared
and BUSY = 0, and its answers are reads of STATUS, the last alone with bit 0 clear (R88, R100; the fields after `inputs`
are the model's own, log entries 1 to 3). -/
def Obligations.ExecPerformsTheCommandAndWaits : Prop :=
  ∀ (s : State) (i : Instr) (rest : List Input), i.wellFormed = true → s.busy = false → s.inputs = execOps i ++ rest →
    ∃ (t : State) (n : Nat) (log : List Response), exec i { s with ovr := false } = .next t ∧ t.busy = false ∧
      t.status.extractLsb' 0 1 = 0 ∧ (∀ r ∈ log, ∃ w : Word, r = .value 0x08 w ∧ w.extractLsb' 0 1 = 1) ∧
      Host.Core.run Sys2Proof.core n s = .next { t with
        inputs := rest, responses := s.responses ++ log ++ [.value 0x08 t.status]
        latencyLeft := 0, latencies := s.latencies.tail, draws := s.draws + 1 }

/-- HashingAMessageGivesItsDigest as a host program: EXEC INIT; ABSORB m; EXEC FINALIZE; READDIGEST, whatever the
latencies, ends with the SM3 digest of m in the host's last eight answers (R88, 40_streaming.md R105). -/
def Obligations.HashProgramReadsTheDigest : Prop :=
  ∀ (m : List Byte) (s : State) (rest : List Input), m.length < 2 ^ 61 → s.busy = false →
    s.inputs = execOps .init ++ absorbOps m ++ execOps .finalize ++ readDigestOps ++ rest →
    ∃ (n : Nat) (t : State) (log : List Response), Host.Core.run Sys2Proof.core n s = .next t ∧
      t.inputs = rest ∧ t.busy = false ∧ t.v = sm3 m ∧ t.cnt.toNat = 8 * m.length ∧ t.buf = [] ∧ t.phase = .final ∧
      t.err = .ok ∧ t.ovr = false ∧
      t.responses = s.responses ++ log ++
        (List.finRange 8).map fun i => .value (0x20 + 4 * BitVec.ofNat 8 i) ((sm3 m).get i)

/-- LengthExtensionLaw as a host program: LOADDIGEST of P's digest; SETCNT of the claimed count; EXEC RESUME; ABSORB x;
EXEC FINALIZE; READDIGEST, whatever the latencies, ends with the SM3 digest of P ++ padding_for(|P|) ++ x in the host's
last eight answers (R88, 41_resume_export.md R135). -/
def Obligations.LengthExtensionProgramReadsTheDigest : Prop :=
  ∀ (p x : List Byte) (s : State) (rest : List Input), p.length < 2 ^ 61 → s.busy = false →
    8 * (p.length + (paddingFor p.length).length + x.length) ≤ 2 ^ 64 - 1 →
    s.inputs = loadDigestOps (wordsBytes (sm3 p)) ++
      setCntOps (BitVec.ofNat 64 (8 * (p.length + (paddingFor p.length).length))) ++ execOps .resume ++ absorbOps x ++
      execOps .finalize ++ readDigestOps ++ rest →
    ∃ (n : Nat) (t : State) (log : List Response), Host.Core.run Sys2Proof.core n s = .next t ∧
      t.inputs = rest ∧ t.busy = false ∧ t.v = sm3 (p ++ paddingFor p.length ++ x) ∧ t.err = .ok ∧ t.ovr = false ∧
      t.responses = s.responses ++ log ++
        (List.finRange 8).map fun i => .value (0x20 + 4 * BitVec.ofNat 8 i) ((sm3 (p ++ paddingFor p.length ++ x)).get i)
end

