-- ==== Sys2Proof/Laws/State.lean ====
section
/-! SUPPORT. One lemma per field per named update of State (Machine/Ops.lean; State.loadMsg of Machine/Digest.lean): what the
update leaves in the field. -/

namespace Sys2Proof.Machine

variable (s : State)

/-! ### State.setErr -/

@[simp] theorem State.setErr_v (code : ErrCode) : (s.setErr code).v = s.v := rfl
@[simp] theorem State.setErr_cnt (code : ErrCode) : (s.setErr code).cnt = s.cnt := rfl
@[simp] theorem State.setErr_buf (code : ErrCode) : (s.setErr code).buf = s.buf := rfl
@[simp] theorem State.setErr_phase (code : ErrCode) : (s.setErr code).phase = s.phase := rfl
@[simp] theorem State.setErr_pending (code : ErrCode) : (s.setErr code).pending = s.pending := rfl
@[simp] theorem State.setErr_err (code : ErrCode) : (s.setErr code).err = code := rfl
@[simp] theorem State.setErr_ovr (code : ErrCode) : (s.setErr code).ovr = s.ovr := rfl
@[simp] theorem State.setErr_cntin (code : ErrCode) : (s.setErr code).cntin = s.cntin := rfl
@[simp] theorem State.setErr_din (code : ErrCode) : (s.setErr code).din = s.din := rfl
@[simp] theorem State.setErr_msg (code : ErrCode) : (s.setErr code).msg = s.msg := rfl
@[simp] theorem State.setErr_padlen (code : ErrCode) : (s.setErr code).padlen = s.padlen := rfl
@[simp] theorem State.setErr_padnb (code : ErrCode) : (s.setErr code).padnb = s.padnb := rfl
@[simp] theorem State.setErr_padout (code : ErrCode) : (s.setErr code).padout = s.padout := rfl
@[simp] theorem State.setErr_latencyLeft (code : ErrCode) : (s.setErr code).latencyLeft = s.latencyLeft := rfl
@[simp] theorem State.setErr_latencies (code : ErrCode) : (s.setErr code).latencies = s.latencies := rfl
@[simp] theorem State.setErr_inputs (code : ErrCode) : (s.setErr code).inputs = s.inputs := rfl
@[simp] theorem State.setErr_responses (code : ErrCode) : (s.setErr code).responses = s.responses := rfl
@[simp] theorem State.setErr_draws (code : ErrCode) : (s.setErr code).draws = s.draws := rfl
@[simp] theorem State.setErr_busy (code : ErrCode) : (s.setErr code).busy = s.busy := rfl

/-! ### State.setContext -/

@[simp] theorem State.setContext_v (v : Vector Word 8) (cnt : DWord) (buf : List Byte) (p : Phase) : (s.setContext v cnt buf p).v = v := rfl
@[simp] theorem State.setContext_cnt (v : Vector Word 8) (cnt : DWord) (buf : List Byte) (p : Phase) : (s.setContext v cnt buf p).cnt = cnt := rfl
@[simp] theorem State.setContext_buf (v : Vector Word 8) (cnt : DWord) (buf : List Byte) (p : Phase) : (s.setContext v cnt buf p).buf = buf := rfl
@[simp] theorem State.setContext_phase (v : Vector Word 8) (cnt : DWord) (buf : List Byte) (p : Phase) : (s.setContext v cnt buf p).phase = p := rfl
@[simp] theorem State.setContext_pending (v : Vector Word 8) (cnt : DWord) (buf : List Byte) (p : Phase) : (s.setContext v cnt buf p).pending = s.pending := rfl
@[simp] theorem State.setContext_err (v : Vector Word 8) (cnt : DWord) (buf : List Byte) (p : Phase) : (s.setContext v cnt buf p).err = s.err := rfl
@[simp] theorem State.setContext_ovr (v : Vector Word 8) (cnt : DWord) (buf : List Byte) (p : Phase) : (s.setContext v cnt buf p).ovr = s.ovr := rfl
@[simp] theorem State.setContext_cntin (v : Vector Word 8) (cnt : DWord) (buf : List Byte) (p : Phase) : (s.setContext v cnt buf p).cntin = s.cntin := rfl
@[simp] theorem State.setContext_din (v : Vector Word 8) (cnt : DWord) (buf : List Byte) (p : Phase) : (s.setContext v cnt buf p).din = s.din := rfl
@[simp] theorem State.setContext_msg (v : Vector Word 8) (cnt : DWord) (buf : List Byte) (p : Phase) : (s.setContext v cnt buf p).msg = s.msg := rfl
@[simp] theorem State.setContext_padlen (v : Vector Word 8) (cnt : DWord) (buf : List Byte) (p : Phase) : (s.setContext v cnt buf p).padlen = s.padlen := rfl
@[simp] theorem State.setContext_padnb (v : Vector Word 8) (cnt : DWord) (buf : List Byte) (p : Phase) : (s.setContext v cnt buf p).padnb = s.padnb := rfl
@[simp] theorem State.setContext_padout (v : Vector Word 8) (cnt : DWord) (buf : List Byte) (p : Phase) : (s.setContext v cnt buf p).padout = s.padout := rfl
@[simp] theorem State.setContext_latencyLeft (v : Vector Word 8) (cnt : DWord) (buf : List Byte) (p : Phase) : (s.setContext v cnt buf p).latencyLeft = s.latencyLeft := rfl
@[simp] theorem State.setContext_latencies (v : Vector Word 8) (cnt : DWord) (buf : List Byte) (p : Phase) : (s.setContext v cnt buf p).latencies = s.latencies := rfl
@[simp] theorem State.setContext_inputs (v : Vector Word 8) (cnt : DWord) (buf : List Byte) (p : Phase) : (s.setContext v cnt buf p).inputs = s.inputs := rfl
@[simp] theorem State.setContext_responses (v : Vector Word 8) (cnt : DWord) (buf : List Byte) (p : Phase) : (s.setContext v cnt buf p).responses = s.responses := rfl
@[simp] theorem State.setContext_draws (v : Vector Word 8) (cnt : DWord) (buf : List Byte) (p : Phase) : (s.setContext v cnt buf p).draws = s.draws := rfl
@[simp] theorem State.setContext_busy (v : Vector Word 8) (cnt : DWord) (buf : List Byte) (p : Phase) : (s.setContext v cnt buf p).busy = s.busy := rfl

/-! ### State.setPadding -/

@[simp] theorem State.setPadding_v (nb : BitVec 7) (out : Vector Word 18) : (s.setPadding nb out).v = s.v := rfl
@[simp] theorem State.setPadding_cnt (nb : BitVec 7) (out : Vector Word 18) : (s.setPadding nb out).cnt = s.cnt := rfl
@[simp] theorem State.setPadding_buf (nb : BitVec 7) (out : Vector Word 18) : (s.setPadding nb out).buf = s.buf := rfl
@[simp] theorem State.setPadding_phase (nb : BitVec 7) (out : Vector Word 18) : (s.setPadding nb out).phase = s.phase := rfl
@[simp] theorem State.setPadding_pending (nb : BitVec 7) (out : Vector Word 18) : (s.setPadding nb out).pending = s.pending := rfl
@[simp] theorem State.setPadding_err (nb : BitVec 7) (out : Vector Word 18) : (s.setPadding nb out).err = s.err := rfl
@[simp] theorem State.setPadding_ovr (nb : BitVec 7) (out : Vector Word 18) : (s.setPadding nb out).ovr = s.ovr := rfl
@[simp] theorem State.setPadding_cntin (nb : BitVec 7) (out : Vector Word 18) : (s.setPadding nb out).cntin = s.cntin := rfl
@[simp] theorem State.setPadding_din (nb : BitVec 7) (out : Vector Word 18) : (s.setPadding nb out).din = s.din := rfl
@[simp] theorem State.setPadding_msg (nb : BitVec 7) (out : Vector Word 18) : (s.setPadding nb out).msg = s.msg := rfl
@[simp] theorem State.setPadding_padlen (nb : BitVec 7) (out : Vector Word 18) : (s.setPadding nb out).padlen = s.padlen := rfl
@[simp] theorem State.setPadding_padnb (nb : BitVec 7) (out : Vector Word 18) : (s.setPadding nb out).padnb = nb := rfl
@[simp] theorem State.setPadding_padout (nb : BitVec 7) (out : Vector Word 18) : (s.setPadding nb out).padout = out := rfl
@[simp] theorem State.setPadding_latencyLeft (nb : BitVec 7) (out : Vector Word 18) : (s.setPadding nb out).latencyLeft = s.latencyLeft := rfl
@[simp] theorem State.setPadding_latencies (nb : BitVec 7) (out : Vector Word 18) : (s.setPadding nb out).latencies = s.latencies := rfl
@[simp] theorem State.setPadding_inputs (nb : BitVec 7) (out : Vector Word 18) : (s.setPadding nb out).inputs = s.inputs := rfl
@[simp] theorem State.setPadding_responses (nb : BitVec 7) (out : Vector Word 18) : (s.setPadding nb out).responses = s.responses := rfl
@[simp] theorem State.setPadding_draws (nb : BitVec 7) (out : Vector Word 18) : (s.setPadding nb out).draws = s.draws := rfl
@[simp] theorem State.setPadding_busy (nb : BitVec 7) (out : Vector Word 18) : (s.setPadding nb out).busy = s.busy := rfl

/-! ### State.retire -/

@[simp] theorem State.retire_v : (s.retire).v = s.v := rfl
@[simp] theorem State.retire_cnt : (s.retire).cnt = s.cnt := rfl
@[simp] theorem State.retire_buf : (s.retire).buf = s.buf := rfl
@[simp] theorem State.retire_phase : (s.retire).phase = s.phase := rfl
@[simp] theorem State.retire_pending : (s.retire).pending = none := rfl
@[simp] theorem State.retire_err : (s.retire).err = s.err := rfl
@[simp] theorem State.retire_ovr : (s.retire).ovr = s.ovr := rfl
@[simp] theorem State.retire_cntin : (s.retire).cntin = s.cntin := rfl
@[simp] theorem State.retire_din : (s.retire).din = s.din := rfl
@[simp] theorem State.retire_msg : (s.retire).msg = s.msg := rfl
@[simp] theorem State.retire_padlen : (s.retire).padlen = s.padlen := rfl
@[simp] theorem State.retire_padnb : (s.retire).padnb = s.padnb := rfl
@[simp] theorem State.retire_padout : (s.retire).padout = s.padout := rfl
@[simp] theorem State.retire_latencyLeft : (s.retire).latencyLeft = 0 := rfl
@[simp] theorem State.retire_latencies : (s.retire).latencies = s.latencies := rfl
@[simp] theorem State.retire_inputs : (s.retire).inputs = s.inputs := rfl
@[simp] theorem State.retire_responses : (s.retire).responses = s.responses := rfl
@[simp] theorem State.retire_draws : (s.retire).draws = s.draws := rfl
@[simp] theorem State.retire_busy : (s.retire).busy = false := rfl

/-! ### State.accept -/

@[simp] theorem State.accept_v (c : Word) : (s.accept c).v = s.v := rfl
@[simp] theorem State.accept_cnt (c : Word) : (s.accept c).cnt = s.cnt := rfl
@[simp] theorem State.accept_buf (c : Word) : (s.accept c).buf = s.buf := rfl
@[simp] theorem State.accept_phase (c : Word) : (s.accept c).phase = s.phase := rfl
@[simp] theorem State.accept_pending (c : Word) : (s.accept c).pending = some c := rfl
@[simp] theorem State.accept_err (c : Word) : (s.accept c).err = .ok := rfl
@[simp] theorem State.accept_ovr (c : Word) : (s.accept c).ovr = false := rfl
@[simp] theorem State.accept_cntin (c : Word) : (s.accept c).cntin = s.cntin := rfl
@[simp] theorem State.accept_din (c : Word) : (s.accept c).din = s.din := rfl
@[simp] theorem State.accept_msg (c : Word) : (s.accept c).msg = s.msg := rfl
@[simp] theorem State.accept_padlen (c : Word) : (s.accept c).padlen = s.padlen := rfl
@[simp] theorem State.accept_padnb (c : Word) : (s.accept c).padnb = s.padnb := rfl
@[simp] theorem State.accept_padout (c : Word) : (s.accept c).padout = s.padout := rfl
@[simp] theorem State.accept_latencyLeft (c : Word) : (s.accept c).latencyLeft = s.latencies.headD (Config.cmdLatency s.draws) := rfl
@[simp] theorem State.accept_latencies (c : Word) : (s.accept c).latencies = s.latencies.tail := rfl
@[simp] theorem State.accept_inputs (c : Word) : (s.accept c).inputs = s.inputs := rfl
@[simp] theorem State.accept_responses (c : Word) : (s.accept c).responses = s.responses := rfl
@[simp] theorem State.accept_draws (c : Word) : (s.accept c).draws = s.draws + 1 := rfl
@[simp] theorem State.accept_busy (c : Word) : (s.accept c).busy = true := rfl

/-! ### State.dropWrite -/

@[simp] theorem State.dropWrite_v : (s.dropWrite).v = s.v := rfl
@[simp] theorem State.dropWrite_cnt : (s.dropWrite).cnt = s.cnt := rfl
@[simp] theorem State.dropWrite_buf : (s.dropWrite).buf = s.buf := rfl
@[simp] theorem State.dropWrite_phase : (s.dropWrite).phase = s.phase := rfl
@[simp] theorem State.dropWrite_pending : (s.dropWrite).pending = s.pending := rfl
@[simp] theorem State.dropWrite_err : (s.dropWrite).err = s.err := rfl
@[simp] theorem State.dropWrite_ovr : (s.dropWrite).ovr = true := rfl
@[simp] theorem State.dropWrite_cntin : (s.dropWrite).cntin = s.cntin := rfl
@[simp] theorem State.dropWrite_din : (s.dropWrite).din = s.din := rfl
@[simp] theorem State.dropWrite_msg : (s.dropWrite).msg = s.msg := rfl
@[simp] theorem State.dropWrite_padlen : (s.dropWrite).padlen = s.padlen := rfl
@[simp] theorem State.dropWrite_padnb : (s.dropWrite).padnb = s.padnb := rfl
@[simp] theorem State.dropWrite_padout : (s.dropWrite).padout = s.padout := rfl
@[simp] theorem State.dropWrite_latencyLeft : (s.dropWrite).latencyLeft = s.latencyLeft := rfl
@[simp] theorem State.dropWrite_latencies : (s.dropWrite).latencies = s.latencies := rfl
@[simp] theorem State.dropWrite_inputs : (s.dropWrite).inputs = s.inputs := rfl
@[simp] theorem State.dropWrite_responses : (s.dropWrite).responses = s.responses := rfl
@[simp] theorem State.dropWrite_draws : (s.dropWrite).draws = s.draws := rfl
@[simp] theorem State.dropWrite_busy : (s.dropWrite).busy = s.busy := rfl

/-! ### State.setCntin -/

@[simp] theorem State.setCntin_v (x : DWord) : (s.setCntin x).v = s.v := rfl
@[simp] theorem State.setCntin_cnt (x : DWord) : (s.setCntin x).cnt = s.cnt := rfl
@[simp] theorem State.setCntin_buf (x : DWord) : (s.setCntin x).buf = s.buf := rfl
@[simp] theorem State.setCntin_phase (x : DWord) : (s.setCntin x).phase = s.phase := rfl
@[simp] theorem State.setCntin_pending (x : DWord) : (s.setCntin x).pending = s.pending := rfl
@[simp] theorem State.setCntin_err (x : DWord) : (s.setCntin x).err = s.err := rfl
@[simp] theorem State.setCntin_ovr (x : DWord) : (s.setCntin x).ovr = s.ovr := rfl
@[simp] theorem State.setCntin_cntin (x : DWord) : (s.setCntin x).cntin = x := rfl
@[simp] theorem State.setCntin_din (x : DWord) : (s.setCntin x).din = s.din := rfl
@[simp] theorem State.setCntin_msg (x : DWord) : (s.setCntin x).msg = s.msg := rfl
@[simp] theorem State.setCntin_padlen (x : DWord) : (s.setCntin x).padlen = s.padlen := rfl
@[simp] theorem State.setCntin_padnb (x : DWord) : (s.setCntin x).padnb = s.padnb := rfl
@[simp] theorem State.setCntin_padout (x : DWord) : (s.setCntin x).padout = s.padout := rfl
@[simp] theorem State.setCntin_latencyLeft (x : DWord) : (s.setCntin x).latencyLeft = s.latencyLeft := rfl
@[simp] theorem State.setCntin_latencies (x : DWord) : (s.setCntin x).latencies = s.latencies := rfl
@[simp] theorem State.setCntin_inputs (x : DWord) : (s.setCntin x).inputs = s.inputs := rfl
@[simp] theorem State.setCntin_responses (x : DWord) : (s.setCntin x).responses = s.responses := rfl
@[simp] theorem State.setCntin_draws (x : DWord) : (s.setCntin x).draws = s.draws := rfl
@[simp] theorem State.setCntin_busy (x : DWord) : (s.setCntin x).busy = s.busy := rfl

/-! ### State.setDin -/

@[simp] theorem State.setDin_v (i : Fin 8) (w : Word) : (s.setDin i w).v = s.v := rfl
@[simp] theorem State.setDin_cnt (i : Fin 8) (w : Word) : (s.setDin i w).cnt = s.cnt := rfl
@[simp] theorem State.setDin_buf (i : Fin 8) (w : Word) : (s.setDin i w).buf = s.buf := rfl
@[simp] theorem State.setDin_phase (i : Fin 8) (w : Word) : (s.setDin i w).phase = s.phase := rfl
@[simp] theorem State.setDin_pending (i : Fin 8) (w : Word) : (s.setDin i w).pending = s.pending := rfl
@[simp] theorem State.setDin_err (i : Fin 8) (w : Word) : (s.setDin i w).err = s.err := rfl
@[simp] theorem State.setDin_ovr (i : Fin 8) (w : Word) : (s.setDin i w).ovr = s.ovr := rfl
@[simp] theorem State.setDin_cntin (i : Fin 8) (w : Word) : (s.setDin i w).cntin = s.cntin := rfl
@[simp] theorem State.setDin_din (i : Fin 8) (w : Word) : (s.setDin i w).din = s.din.set i w := rfl
@[simp] theorem State.setDin_msg (i : Fin 8) (w : Word) : (s.setDin i w).msg = s.msg := rfl
@[simp] theorem State.setDin_padlen (i : Fin 8) (w : Word) : (s.setDin i w).padlen = s.padlen := rfl
@[simp] theorem State.setDin_padnb (i : Fin 8) (w : Word) : (s.setDin i w).padnb = s.padnb := rfl
@[simp] theorem State.setDin_padout (i : Fin 8) (w : Word) : (s.setDin i w).padout = s.padout := rfl
@[simp] theorem State.setDin_latencyLeft (i : Fin 8) (w : Word) : (s.setDin i w).latencyLeft = s.latencyLeft := rfl
@[simp] theorem State.setDin_latencies (i : Fin 8) (w : Word) : (s.setDin i w).latencies = s.latencies := rfl
@[simp] theorem State.setDin_inputs (i : Fin 8) (w : Word) : (s.setDin i w).inputs = s.inputs := rfl
@[simp] theorem State.setDin_responses (i : Fin 8) (w : Word) : (s.setDin i w).responses = s.responses := rfl
@[simp] theorem State.setDin_draws (i : Fin 8) (w : Word) : (s.setDin i w).draws = s.draws := rfl
@[simp] theorem State.setDin_busy (i : Fin 8) (w : Word) : (s.setDin i w).busy = s.busy := rfl

/-! ### State.setMsg -/

@[simp] theorem State.setMsg_v (i : Fin 16) (w : Word) : (s.setMsg i w).v = s.v := rfl
@[simp] theorem State.setMsg_cnt (i : Fin 16) (w : Word) : (s.setMsg i w).cnt = s.cnt := rfl
@[simp] theorem State.setMsg_buf (i : Fin 16) (w : Word) : (s.setMsg i w).buf = s.buf := rfl
@[simp] theorem State.setMsg_phase (i : Fin 16) (w : Word) : (s.setMsg i w).phase = s.phase := rfl
@[simp] theorem State.setMsg_pending (i : Fin 16) (w : Word) : (s.setMsg i w).pending = s.pending := rfl
@[simp] theorem State.setMsg_err (i : Fin 16) (w : Word) : (s.setMsg i w).err = s.err := rfl
@[simp] theorem State.setMsg_ovr (i : Fin 16) (w : Word) : (s.setMsg i w).ovr = s.ovr := rfl
@[simp] theorem State.setMsg_cntin (i : Fin 16) (w : Word) : (s.setMsg i w).cntin = s.cntin := rfl
@[simp] theorem State.setMsg_din (i : Fin 16) (w : Word) : (s.setMsg i w).din = s.din := rfl
@[simp] theorem State.setMsg_msg (i : Fin 16) (w : Word) : (s.setMsg i w).msg = s.msg.set i w := rfl
@[simp] theorem State.setMsg_padlen (i : Fin 16) (w : Word) : (s.setMsg i w).padlen = s.padlen := rfl
@[simp] theorem State.setMsg_padnb (i : Fin 16) (w : Word) : (s.setMsg i w).padnb = s.padnb := rfl
@[simp] theorem State.setMsg_padout (i : Fin 16) (w : Word) : (s.setMsg i w).padout = s.padout := rfl
@[simp] theorem State.setMsg_latencyLeft (i : Fin 16) (w : Word) : (s.setMsg i w).latencyLeft = s.latencyLeft := rfl
@[simp] theorem State.setMsg_latencies (i : Fin 16) (w : Word) : (s.setMsg i w).latencies = s.latencies := rfl
@[simp] theorem State.setMsg_inputs (i : Fin 16) (w : Word) : (s.setMsg i w).inputs = s.inputs := rfl
@[simp] theorem State.setMsg_responses (i : Fin 16) (w : Word) : (s.setMsg i w).responses = s.responses := rfl
@[simp] theorem State.setMsg_draws (i : Fin 16) (w : Word) : (s.setMsg i w).draws = s.draws := rfl
@[simp] theorem State.setMsg_busy (i : Fin 16) (w : Word) : (s.setMsg i w).busy = s.busy := rfl

/-! ### State.setPadlen -/

@[simp] theorem State.setPadlen_v (x : DWord) : (s.setPadlen x).v = s.v := rfl
@[simp] theorem State.setPadlen_cnt (x : DWord) : (s.setPadlen x).cnt = s.cnt := rfl
@[simp] theorem State.setPadlen_buf (x : DWord) : (s.setPadlen x).buf = s.buf := rfl
@[simp] theorem State.setPadlen_phase (x : DWord) : (s.setPadlen x).phase = s.phase := rfl
@[simp] theorem State.setPadlen_pending (x : DWord) : (s.setPadlen x).pending = s.pending := rfl
@[simp] theorem State.setPadlen_err (x : DWord) : (s.setPadlen x).err = s.err := rfl
@[simp] theorem State.setPadlen_ovr (x : DWord) : (s.setPadlen x).ovr = s.ovr := rfl
@[simp] theorem State.setPadlen_cntin (x : DWord) : (s.setPadlen x).cntin = s.cntin := rfl
@[simp] theorem State.setPadlen_din (x : DWord) : (s.setPadlen x).din = s.din := rfl
@[simp] theorem State.setPadlen_msg (x : DWord) : (s.setPadlen x).msg = s.msg := rfl
@[simp] theorem State.setPadlen_padlen (x : DWord) : (s.setPadlen x).padlen = x := rfl
@[simp] theorem State.setPadlen_padnb (x : DWord) : (s.setPadlen x).padnb = s.padnb := rfl
@[simp] theorem State.setPadlen_padout (x : DWord) : (s.setPadlen x).padout = s.padout := rfl
@[simp] theorem State.setPadlen_latencyLeft (x : DWord) : (s.setPadlen x).latencyLeft = s.latencyLeft := rfl
@[simp] theorem State.setPadlen_latencies (x : DWord) : (s.setPadlen x).latencies = s.latencies := rfl
@[simp] theorem State.setPadlen_inputs (x : DWord) : (s.setPadlen x).inputs = s.inputs := rfl
@[simp] theorem State.setPadlen_responses (x : DWord) : (s.setPadlen x).responses = s.responses := rfl
@[simp] theorem State.setPadlen_draws (x : DWord) : (s.setPadlen x).draws = s.draws := rfl
@[simp] theorem State.setPadlen_busy (x : DWord) : (s.setPadlen x).busy = s.busy := rfl

/-! ### State.setInputs -/

@[simp] theorem State.setInputs_v (rest : List Input) : (s.setInputs rest).v = s.v := rfl
@[simp] theorem State.setInputs_cnt (rest : List Input) : (s.setInputs rest).cnt = s.cnt := rfl
@[simp] theorem State.setInputs_buf (rest : List Input) : (s.setInputs rest).buf = s.buf := rfl
@[simp] theorem State.setInputs_phase (rest : List Input) : (s.setInputs rest).phase = s.phase := rfl
@[simp] theorem State.setInputs_pending (rest : List Input) : (s.setInputs rest).pending = s.pending := rfl
@[simp] theorem State.setInputs_err (rest : List Input) : (s.setInputs rest).err = s.err := rfl
@[simp] theorem State.setInputs_ovr (rest : List Input) : (s.setInputs rest).ovr = s.ovr := rfl
@[simp] theorem State.setInputs_cntin (rest : List Input) : (s.setInputs rest).cntin = s.cntin := rfl
@[simp] theorem State.setInputs_din (rest : List Input) : (s.setInputs rest).din = s.din := rfl
@[simp] theorem State.setInputs_msg (rest : List Input) : (s.setInputs rest).msg = s.msg := rfl
@[simp] theorem State.setInputs_padlen (rest : List Input) : (s.setInputs rest).padlen = s.padlen := rfl
@[simp] theorem State.setInputs_padnb (rest : List Input) : (s.setInputs rest).padnb = s.padnb := rfl
@[simp] theorem State.setInputs_padout (rest : List Input) : (s.setInputs rest).padout = s.padout := rfl
@[simp] theorem State.setInputs_latencyLeft (rest : List Input) : (s.setInputs rest).latencyLeft = s.latencyLeft := rfl
@[simp] theorem State.setInputs_latencies (rest : List Input) : (s.setInputs rest).latencies = s.latencies := rfl
@[simp] theorem State.setInputs_inputs (rest : List Input) : (s.setInputs rest).inputs = rest := rfl
@[simp] theorem State.setInputs_responses (rest : List Input) : (s.setInputs rest).responses = s.responses := rfl
@[simp] theorem State.setInputs_draws (rest : List Input) : (s.setInputs rest).draws = s.draws := rfl
@[simp] theorem State.setInputs_busy (rest : List Input) : (s.setInputs rest).busy = s.busy := rfl

/-! ### State.respond -/

@[simp] theorem State.respond_v (r : Response) : (s.respond r).v = s.v := rfl
@[simp] theorem State.respond_cnt (r : Response) : (s.respond r).cnt = s.cnt := rfl
@[simp] theorem State.respond_buf (r : Response) : (s.respond r).buf = s.buf := rfl
@[simp] theorem State.respond_phase (r : Response) : (s.respond r).phase = s.phase := rfl
@[simp] theorem State.respond_pending (r : Response) : (s.respond r).pending = s.pending := rfl
@[simp] theorem State.respond_err (r : Response) : (s.respond r).err = s.err := rfl
@[simp] theorem State.respond_ovr (r : Response) : (s.respond r).ovr = s.ovr := rfl
@[simp] theorem State.respond_cntin (r : Response) : (s.respond r).cntin = s.cntin := rfl
@[simp] theorem State.respond_din (r : Response) : (s.respond r).din = s.din := rfl
@[simp] theorem State.respond_msg (r : Response) : (s.respond r).msg = s.msg := rfl
@[simp] theorem State.respond_padlen (r : Response) : (s.respond r).padlen = s.padlen := rfl
@[simp] theorem State.respond_padnb (r : Response) : (s.respond r).padnb = s.padnb := rfl
@[simp] theorem State.respond_padout (r : Response) : (s.respond r).padout = s.padout := rfl
@[simp] theorem State.respond_latencyLeft (r : Response) : (s.respond r).latencyLeft = s.latencyLeft := rfl
@[simp] theorem State.respond_latencies (r : Response) : (s.respond r).latencies = s.latencies := rfl
@[simp] theorem State.respond_inputs (r : Response) : (s.respond r).inputs = s.inputs := rfl
@[simp] theorem State.respond_responses (r : Response) : (s.respond r).responses = s.responses ++ [r] := rfl
@[simp] theorem State.respond_draws (r : Response) : (s.respond r).draws = s.draws := rfl
@[simp] theorem State.respond_busy (r : Response) : (s.respond r).busy = s.busy := rfl

/-! ### State.drawn -/

@[simp] theorem State.drawn_v : (s.drawn).v = s.v := rfl
@[simp] theorem State.drawn_cnt : (s.drawn).cnt = s.cnt := rfl
@[simp] theorem State.drawn_buf : (s.drawn).buf = s.buf := rfl
@[simp] theorem State.drawn_phase : (s.drawn).phase = s.phase := rfl
@[simp] theorem State.drawn_pending : (s.drawn).pending = s.pending := rfl
@[simp] theorem State.drawn_err : (s.drawn).err = s.err := rfl
@[simp] theorem State.drawn_ovr : (s.drawn).ovr = s.ovr := rfl
@[simp] theorem State.drawn_cntin : (s.drawn).cntin = s.cntin := rfl
@[simp] theorem State.drawn_din : (s.drawn).din = s.din := rfl
@[simp] theorem State.drawn_msg : (s.drawn).msg = s.msg := rfl
@[simp] theorem State.drawn_padlen : (s.drawn).padlen = s.padlen := rfl
@[simp] theorem State.drawn_padnb : (s.drawn).padnb = s.padnb := rfl
@[simp] theorem State.drawn_padout : (s.drawn).padout = s.padout := rfl
@[simp] theorem State.drawn_latencyLeft : (s.drawn).latencyLeft = s.latencyLeft := rfl
@[simp] theorem State.drawn_latencies : (s.drawn).latencies = s.latencies := rfl
@[simp] theorem State.drawn_inputs : (s.drawn).inputs = s.inputs := rfl
@[simp] theorem State.drawn_responses : (s.drawn).responses = s.responses := rfl
@[simp] theorem State.drawn_draws : (s.drawn).draws = s.draws + 1 := rfl
@[simp] theorem State.drawn_busy : (s.drawn).busy = s.busy := rfl

/-! ### State.tick -/

@[simp] theorem State.tick_v : (s.tick).v = s.v := rfl
@[simp] theorem State.tick_cnt : (s.tick).cnt = s.cnt := rfl
@[simp] theorem State.tick_buf : (s.tick).buf = s.buf := rfl
@[simp] theorem State.tick_phase : (s.tick).phase = s.phase := rfl
@[simp] theorem State.tick_pending : (s.tick).pending = s.pending := rfl
@[simp] theorem State.tick_err : (s.tick).err = s.err := rfl
@[simp] theorem State.tick_ovr : (s.tick).ovr = s.ovr := rfl
@[simp] theorem State.tick_cntin : (s.tick).cntin = s.cntin := rfl
@[simp] theorem State.tick_din : (s.tick).din = s.din := rfl
@[simp] theorem State.tick_msg : (s.tick).msg = s.msg := rfl
@[simp] theorem State.tick_padlen : (s.tick).padlen = s.padlen := rfl
@[simp] theorem State.tick_padnb : (s.tick).padnb = s.padnb := rfl
@[simp] theorem State.tick_padout : (s.tick).padout = s.padout := rfl
@[simp] theorem State.tick_latencyLeft : (s.tick).latencyLeft = s.latencyLeft - 1 := rfl
@[simp] theorem State.tick_latencies : (s.tick).latencies = s.latencies := rfl
@[simp] theorem State.tick_inputs : (s.tick).inputs = s.inputs := rfl
@[simp] theorem State.tick_responses : (s.tick).responses = s.responses := rfl
@[simp] theorem State.tick_draws : (s.tick).draws = s.draws := rfl
@[simp] theorem State.tick_busy : (s.tick).busy = s.busy := rfl

/-! ### State.resetBlock -/

@[simp] theorem State.resetBlock_v : (s.resetBlock).v = Vector.replicate 8 0 := rfl
@[simp] theorem State.resetBlock_cnt : (s.resetBlock).cnt = 0 := rfl
@[simp] theorem State.resetBlock_buf : (s.resetBlock).buf = [] := rfl
@[simp] theorem State.resetBlock_phase : (s.resetBlock).phase = .idle := rfl
@[simp] theorem State.resetBlock_pending : (s.resetBlock).pending = none := rfl
@[simp] theorem State.resetBlock_err : (s.resetBlock).err = .ok := rfl
@[simp] theorem State.resetBlock_ovr : (s.resetBlock).ovr = false := rfl
@[simp] theorem State.resetBlock_cntin : (s.resetBlock).cntin = 0 := rfl
@[simp] theorem State.resetBlock_din : (s.resetBlock).din = Vector.replicate 8 0 := rfl
@[simp] theorem State.resetBlock_msg : (s.resetBlock).msg = Vector.replicate 16 0 := rfl
@[simp] theorem State.resetBlock_padlen : (s.resetBlock).padlen = 0 := rfl
@[simp] theorem State.resetBlock_padnb : (s.resetBlock).padnb = 0 := rfl
@[simp] theorem State.resetBlock_padout : (s.resetBlock).padout = Vector.replicate 18 0 := rfl
@[simp] theorem State.resetBlock_latencyLeft : (s.resetBlock).latencyLeft = 0 := rfl
@[simp] theorem State.resetBlock_latencies : (s.resetBlock).latencies = s.latencies := rfl
@[simp] theorem State.resetBlock_inputs : (s.resetBlock).inputs = s.inputs := rfl
@[simp] theorem State.resetBlock_responses : (s.resetBlock).responses = s.responses := rfl
@[simp] theorem State.resetBlock_draws : (s.resetBlock).draws = s.draws := rfl
@[simp] theorem State.resetBlock_busy : (s.resetBlock).busy = false := rfl

/-! ### State.loadMsg -/

@[simp] theorem State.loadMsg_v (c : List Byte) : (s.loadMsg c).v = s.v := rfl
@[simp] theorem State.loadMsg_cnt (c : List Byte) : (s.loadMsg c).cnt = s.cnt := rfl
@[simp] theorem State.loadMsg_buf (c : List Byte) : (s.loadMsg c).buf = s.buf := rfl
@[simp] theorem State.loadMsg_phase (c : List Byte) : (s.loadMsg c).phase = s.phase := rfl
@[simp] theorem State.loadMsg_pending (c : List Byte) : (s.loadMsg c).pending = s.pending := rfl
@[simp] theorem State.loadMsg_err (c : List Byte) : (s.loadMsg c).err = s.err := rfl
@[simp] theorem State.loadMsg_ovr (c : List Byte) : (s.loadMsg c).ovr = s.ovr := rfl
@[simp] theorem State.loadMsg_cntin (c : List Byte) : (s.loadMsg c).cntin = s.cntin := rfl
@[simp] theorem State.loadMsg_din (c : List Byte) : (s.loadMsg c).din = s.din := rfl
@[simp] theorem State.loadMsg_msg (c : List Byte) : (s.loadMsg c).msg = Vector.ofFn fun i : Fin 16 => if i < (c.length + 3) / 4 then word32 c i else s.msg.get i := rfl
@[simp] theorem State.loadMsg_padlen (c : List Byte) : (s.loadMsg c).padlen = s.padlen := rfl
@[simp] theorem State.loadMsg_padnb (c : List Byte) : (s.loadMsg c).padnb = s.padnb := rfl
@[simp] theorem State.loadMsg_padout (c : List Byte) : (s.loadMsg c).padout = s.padout := rfl
@[simp] theorem State.loadMsg_latencyLeft (c : List Byte) : (s.loadMsg c).latencyLeft = s.latencyLeft := rfl
@[simp] theorem State.loadMsg_latencies (c : List Byte) : (s.loadMsg c).latencies = s.latencies := rfl
@[simp] theorem State.loadMsg_inputs (c : List Byte) : (s.loadMsg c).inputs = s.inputs := rfl
@[simp] theorem State.loadMsg_responses (c : List Byte) : (s.loadMsg c).responses = s.responses := rfl
@[simp] theorem State.loadMsg_draws (c : List Byte) : (s.loadMsg c).draws = s.draws := rfl
@[simp] theorem State.loadMsg_busy (c : List Byte) : (s.loadMsg c).busy = s.busy := rfl

/-! ### Updates on top of each other -/

@[simp] theorem State.setErr_setErr (c d : ErrCode) : (s.setErr c).setErr d = s.setErr d := rfl
@[simp] theorem State.setInputs_setInputs (a b : List Input) : (s.setInputs a).setInputs b = s.setInputs b := rfl

end Sys2Proof.Machine
end

