-- ==== Sys2Proof/Laws/Ops.lean ====
section
/-! SUPPORT. One lemma per shared operation that says once everything it can do; later proofs cite these and do not unfold
the operation. -/

namespace Sys2Proof.Machine

/-! ## Byte strings -/

@[simp] theorem length_zeros (n : Nat) : (zeros n).length = n := List.length_replicate

@[simp] theorem length_be32 (w : Word) : (be32 w).length = 4 := rfl

@[simp] theorem length_be64 (v : DWord) : (be64 v).length = 8 := rfl

theorem length_flatMap_be32 (l : List Word) : (l.flatMap be32).length = 4 * l.length := by
  induction l with
  | nil => rfl
  | cons w l ih => simp only [List.flatMap_cons, List.length_append, length_be32, ih, List.length_cons]; omega

@[simp] theorem length_wordsBytes {n : Nat} (ws : Vector Word n) : (wordsBytes ws).length = 4 * n := by
  rw [wordsBytes, length_flatMap_be32, Vector.length_toList]

theorem length_chunk (s : State) (n : Nat) : (s.chunk n).length = min n 64 := by
  simp [State.chunk, State.msgBytes]

theorem length_chunk_of_le (s : State) {n : Nat} (h : n ≤ 64) : (s.chunk n).length = n := by
  rw [length_chunk]; omega

/-- The padding's length (43_padding.md R181). -/
theorem length_paddingFor (l : Nat) : (paddingFor l).length = 9 + padZeros l := by
  simp [paddingFor]; omega

theorem padZeros_le (l : Nat) : padZeros l ≤ 63 := by
  unfold padZeros; omega

/-! ## How a command ends -/

@[simp] theorem State.fail_eq (s : State) (code : ErrCode) : s.fail code = .next (s.setErr code) := rfl

@[simp] theorem State.done_eq (s : State) : s.done = .next (s.setErr .ok) := rfl

theorem State.updateTooLong_iff (s : State) (n : Nat) :
    s.updateTooLong n = true ↔ 2 ^ 64 - 1 < s.cnt.toNat + 8 * (s.buf.length + n) := by
  rw [State.updateTooLong, decide_eq_true_iff, gt_iff_lt]

theorem State.padTooLong_iff (s : State) : s.padTooLong = true ↔ 2 ^ 61 ≤ s.padlen.toNat := by
  rw [State.padTooLong, decide_eq_true_iff, ge_iff_le, State.padBytes]

/-- The context after absorbing b: everything `absorb` can do, in one case split on |b|. -/
theorem State.absorb_cases (s : State) (b : List Byte) :
    (b.length < 64 ∧ s.absorb b = s.setContext s.v s.cnt b s.phase) ∨
    (64 ≤ b.length ∧ s.absorb b = s.setContext (cf s.v (b.take 64)) (s.cnt + 512) (b.drop 64) s.phase) := by
  unfold State.absorb
  split
  · exact .inr ⟨by assumption, rfl⟩
  · exact .inl ⟨by omega, rfl⟩

/-- Everything UPDATE can do (40_streaming.md R102). -/
theorem execUpdate_cases (n : BitVec 7) (s : State) :
    (s.phase = .idle ∧ execUpdate n s = .next (s.setErr .noctx)) ∨
    (s.phase = .final ∧ execUpdate n s = .next (s.setErr .finalized)) ∨
    (s.phase = .active ∧ 2 ^ 64 - 1 < s.cnt.toNat + 8 * (s.buf.length + n.toNat) ∧
      execUpdate n s = .next (s.setErr .length)) ∨
    (s.phase = .active ∧ s.cnt.toNat + 8 * (s.buf.length + n.toNat) ≤ 2 ^ 64 - 1 ∧
      execUpdate n s = .next ((s.absorb (s.buf ++ s.chunk n.toNat)).setErr .ok)) := by
  unfold execUpdate
  cases h : s.phase with
  | idle => exact .inl ⟨rfl, rfl⟩
  | final => exact .inr (.inl ⟨rfl, rfl⟩)
  | active =>
    by_cases hl : s.cnt.toNat + 8 * (s.buf.length + n.toNat) ≤ 2 ^ 64 - 1
    · exact .inr (.inr (.inr ⟨rfl, hl, if_neg fun ht => Nat.not_lt.mpr hl ((s.updateTooLong_iff _).mp ht)⟩))
    · exact .inr (.inr (.inl ⟨rfl, Nat.not_le.mp hl, if_pos ((s.updateTooLong_iff _).mpr (Nat.not_le.mp hl))⟩))

/-- Everything FINALIZE can do (40_streaming.md R104). -/
theorem execFinalize_cases (s : State) :
    (s.phase = .idle ∧ execFinalize s = .next (s.setErr .noctx)) ∨
    (s.phase = .final ∧ execFinalize s = .next (s.setErr .finalized)) ∨
    (s.phase = .active ∧ execFinalize s = .next ((s.setContext (finalizeChaining s.v s.buf s.totalBits)
      (BitVec.ofNat 64 s.totalBits) [] .final).setErr .ok)) := by
  unfold execFinalize
  cases h : s.phase with
  | idle => exact .inl ⟨rfl, rfl⟩
  | final => exact .inr (.inl ⟨rfl, rfl⟩)
  | active => exact .inr (.inr ⟨rfl, rfl⟩)

/-- Everything PAD can do (43_padding.md R180). -/
theorem execPad_cases (s : State) :
    (2 ^ 61 ≤ s.padlen.toNat ∧ execPad s = .next (s.setErr .length)) ∨
    (s.padlen.toNat < 2 ^ 61 ∧ execPad s = .next ((s.setPadding (BitVec.ofNat 7 (paddingFor s.padlen.toNat).length)
      (bytesWords 18 (paddingFor s.padlen.toNat))).setErr .ok)) := by
  unfold execPad
  by_cases h : 2 ^ 61 ≤ s.padlen.toNat
  · exact .inl ⟨h, if_pos (s.padTooLong_iff.mpr h)⟩
  · exact .inr ⟨Nat.not_le.mp h, if_neg fun ht => h (s.padTooLong_iff.mp ht)⟩

/-! ## The core -/

theorem perform_of_legal {c : Word} {i : Instr} (s : State) (h : decode c = .ok i) : perform c s = exec i s := by
  simp [perform, h]

theorem perform_of_illegal {c : Word} {e : DecodeError} (s : State) (h : decode c = .error e) :
    perform c s = .next (s.setErr .illegal) := by
  simp [perform, h]

theorem coreTurn_iff (s : State) : s.coreTurn = true ↔ s.busy = true ∧ s.latencyLeft = 0 := by
  simp [State.coreTurn]

theorem coreStep_of_pending {s : State} {c : Word} (h : s.pending = some c) :
    coreStep s = retireOutcome (perform c s) := by
  simp [coreStep, h]

theorem step_of_coreTurn {s : State} (h : s.coreTurn = true) : step s = coreStep s := by
  simp [step, h]

theorem step_of_hostTurn {s : State} (h : s.coreTurn = false) : step s = hostStep s.tick := by
  simp [step, h]

theorem coreTurn_of_pending {s : State} {c : Word} (h : s.pending = some c) (hl : s.latencyLeft = 0) :
    s.coreTurn = true := by
  simp [State.coreTurn, State.busy, h, hl]

theorem hostTurn_of {s : State} (h : s.pending = none ∨ s.latencyLeft ≠ 0) : s.coreTurn = false := by
  rcases h with h | h <;> simp [State.coreTurn, State.busy, h]

/-! ## The host -/

theorem State.afterRead_cases (s : State) (off : Offset) : s.afterRead off = s ∨ s.afterRead off = s.drawn := by
  unfold State.afterRead; split
  · exact .inr rfl
  · exact .inl rfl

/-- Everything RegWrite can do (20_memory.md R68). -/
theorem State.regWrite_cases (s : State) (off : Offset) (w : Word) :
    (s.busy = true ∧ (s.regWrite off w = s.dropWrite ∨ s.regWrite off w = s)) ∨
    (s.busy = false ∧ s.regWrite off w = s.accept w) ∨
    (s.busy = false ∧ s.regWrite off w = s.writeInput w (regAt off)) := by
  unfold State.regWrite
  by_cases hb : s.busy = true
  · refine .inl ⟨hb, ?_⟩
    by_cases hr : (regAt off).droppedWhileBusy = true <;> simp [hb, hr]
  · by_cases hc : regAt off = .cmd
    · exact .inr (.inl ⟨by simpa using hb, by simp [hb, hc]⟩)
    · exact .inr (.inr ⟨by simpa using hb, by simp [hb, hc]⟩)

/-- Everything the write of an input register can do: one input register changes, or nothing (20_memory.md R68). -/
theorem State.writeInput_cases (s : State) (w : Word) (r : Reg) :
    s.writeInput w r = s ∨ (∃ x, s.writeInput w r = s.setCntin x) ∨ (∃ i, s.writeInput w r = s.setDin i w) ∨
    (∃ i, s.writeInput w r = s.setMsg i w) ∨ ∃ x, s.writeInput w r = s.setPadlen x := by
  cases r with
  | cntinLo => exact .inr (.inl ⟨_, rfl⟩)
  | cntinHi => exact .inr (.inl ⟨_, rfl⟩)
  | din i => exact .inr (.inr (.inl ⟨i, rfl⟩))
  | msg i => exact .inr (.inr (.inr (.inl ⟨i, rfl⟩)))
  | padlenLo => exact .inr (.inr (.inr (.inr ⟨_, rfl⟩)))
  | padlenHi => exact .inr (.inr (.inr (.inr ⟨_, rfl⟩)))
  | _ => exact .inl rfl

/-- The state after a read access and its answer. -/
theorem busRead_cases (width : Nat) (off : Offset) (s : State) :
    (refusedAccess width off = true ∧ busRead width off s = .fault (.busError off)) ∨
    (refusedAccess width off = false ∧
      busRead width off s = .next ((s.afterRead off).respond (.value off (s.regRead off)))) := by
  unfold busRead; cases refusedAccess width off <;> simp

/-- The state after a write access. -/
theorem busWrite_cases (width : Nat) (off : Offset) (w : Word) (s : State) :
    (refusedAccess width off = true ∧ busWrite width off w s = .fault (.busError off)) ∨
    (refusedAccess width off = false ∧ busWrite width off w s = .next (s.regWrite off w)) := by
  unfold busWrite; cases refusedAccess width off <;> simp

/-- The register map and the offsets are inverse to each other (20_memory.md R52). -/
@[simp] theorem regAt_offset (r : Reg) : regAt r.offset = r := by
  cases r with
  | state i | din i | msg i | padout i | reserved i => revert i; decide
  | _ => rfl

/-- A 32-bit access to a register is not refused (20_memory.md R51). -/
@[simp] theorem not_refused_offset (r : Reg) : refusedAccess 32 r.offset = false := by
  cases r with
  | state i | din i | msg i | padout i | reserved i => revert i; decide
  | _ => rfl

/-- RegRead of a register that is no free draw now (20_memory.md R67). -/
theorem State.regRead_offset {s : State} {r : Reg} (h : s.drawsOn r = false) : s.regRead r.offset = s.regValue r := by
  simp [State.regRead, h]

theorem State.afterRead_offset {s : State} {r : Reg} (h : s.drawsOn r = false) : s.afterRead r.offset = s := by
  simp [State.afterRead, h]

/-- Nothing is a free draw while BUSY = 0. -/
theorem State.drawsOn_idle {s : State} (r : Reg) (h : s.busy = false) : s.drawsOn r = false := by
  simp [State.drawsOn, h]

theorem busRead_offset {s : State} {r : Reg} (h : s.drawsOn r = false) :
    busRead 32 r.offset s = .next (s.respond (.value r.offset (s.regValue r))) := by
  simp [busRead, State.regRead_offset h, State.afterRead_offset h]

/-- RegWrite of any register but CMD while BUSY = 0 (20_memory.md R68). -/
theorem State.regWrite_offset {s : State} {r : Reg} (w : Word) (h : s.busy = false) (hr : r ≠ .cmd) :
    s.regWrite r.offset w = s.writeInput w r := by
  simp [State.regWrite, h, hr]

/-- RegWrite of CMD while BUSY = 0 (20_memory.md R68). -/
theorem State.regWrite_cmd {s : State} (w : Word) (h : s.busy = false) : s.regWrite Reg.cmd.offset w = s.accept w := by
  simp [State.regWrite, h]

/-- Everything a host step can do: nothing, an answer, a register write, a reset, on the inputs that are left. -/
theorem hostStep_cases (s : State) :
    (s.inputs = [] ∧ hostStep s = .next s) ∨
    (∃ rest, s.inputs = .reset :: rest ∧ hostStep s = .next (s.setInputs rest).resetBlock) ∨
    (∃ rest off, (∃ x, s.inputs = x :: rest ∧ x ≠ .reset) ∧
      hostStep s = .next ((s.setInputs rest).respond (.busError off))) ∨
    (∃ ins off w, ¬ s.resetNext ∧ hostStep s = .next (((s.setInputs ins).afterRead off).respond (.value off w))) ∨
    (∃ rest width off w, s.inputs = .write width off w :: rest ∧ refusedAccess width off = false ∧
      hostStep s = .next ((s.setInputs rest).regWrite off w)) := by
  unfold hostStep
  split
  · exact .inl ⟨by assumption, rfl⟩
  · rename_i width off rest hi
    rcases busRead_cases width off (s.setInputs rest) with ⟨-, h⟩ | ⟨-, h⟩
    · exact .inr (.inr (.inl ⟨rest, off, ⟨_, hi, by simp⟩, by simp [h, finishAccess]⟩))
    · exact .inr (.inr (.inr (.inl ⟨rest, off, _, by simp [hi], by rw [h]; rfl⟩)))
  · rename_i width off w rest hi
    rcases busWrite_cases width off w (s.setInputs rest) with ⟨-, h⟩ | ⟨ha, h⟩
    · exact .inr (.inr (.inl ⟨rest, off, ⟨_, hi, by simp⟩, by simp [h, finishAccess]⟩))
    · exact .inr (.inr (.inr (.inr ⟨rest, width, off, w, hi, ha, by rw [h]; rfl⟩)))
  · rename_i rest hi
    refine .inr (.inr (.inr (.inl ?_)))
    split
    · refine ⟨s.inputs, Reg.status.offset, s.regRead Reg.status.offset, by simp [hi], ?_⟩
      rw [(busRead_cases 32 Reg.status.offset s).resolve_left (by simp) |>.2]; rfl
    · refine ⟨rest, Reg.status.offset, (s.setInputs rest).regRead Reg.status.offset, by simp [hi], ?_⟩
      rw [(busRead_cases 32 Reg.status.offset (s.setInputs rest)).resolve_left (by simp) |>.2]; rfl
  · rename_i rest hi
    exact .inr (.inl ⟨rest, hi, rfl⟩)

end Sys2Proof.Machine
end

