-- ==== Sys2Proof/Laws/Bytes.lean ====
section
/-! SUPPORT. Words and byte strings: the big-endian packing and unpacking are inverse to each other. -/

namespace Sys2Proof.Machine
theorem or_shifts_eq_append (a b c d : Byte) :
    (a.setWidth 32 <<< 24) ||| (b.setWidth 32 <<< 16) ||| (c.setWidth 32 <<< 8) ||| d.setWidth 32 = (a ++ b ++ c ++ d : BitVec 32) := by
  apply BitVec.eq_of_getLsbD_eq
  intro i hi
  have e := @BitVec.getLsbD_append
  rw [e, e, e]
  simp only [BitVec.getLsbD_or, BitVec.getLsbD_shiftLeft, BitVec.getLsbD_setWidth]
  by_cases h1 : i < 8
  · simp [h1, hi, show i < 16 by omega, show i < 24 by omega]
  · have := BitVec.getLsbD_of_ge d i (by omega)
    by_cases h2 : i < 16
    · simp [h1, hi, h2, this, show i < 24 by omega, show i - 8 < 8 by omega, show i - 8 < 32 by omega]
    · have := BitVec.getLsbD_of_ge c (i-8) (by omega)
      by_cases h3 : i < 24
      · have h4 : ¬ 8 ≤ i - 16 := by omega
        simp [*, show i - 16 < 32 by omega, show ¬ i - 8 < 8 by omega, show i - 8 - 8 = i - 16 by omega]
      · have := BitVec.getLsbD_of_ge b (i-16) (by omega)
        simp [*,  show i - 24 < 32 by omega, show ¬ i - 8 < 8 by omega, show ¬ i - 8 - 8 < 8 by omega, show i - 8 - 8 - 8 = i - 24 by omega]
theorem word32_eq_append (s : List Byte) (i : Nat) :
    word32 s i = s.getD (4 * i) 0 ++ s.getD (4 * i + 1) 0 ++ s.getD (4 * i + 2) 0 ++ s.getD (4 * i + 3) 0 :=
  or_shifts_eq_append _ _ _ _
theorem be32_append (a b c d : Byte) : be32 (a ++ b ++ c ++ d : BitVec 32) = [a, b, c, d] := by
  simp only [be32, List.cons.injEq, and_true]
  refine ⟨?_, ?_, ?_, ?_⟩ <;>
  · apply BitVec.eq_of_getLsbD_eq
    intro i hi
    have e := @BitVec.getLsbD_append
    rw [BitVec.getLsbD_extractLsb', e, e, e]
    simp [hi, show ¬ 24 + i < 8 by omega,show ¬ 16 + i < 8 by omega, show ¬ 8 + i < 8 by omega, show 24 + i - 8 - 8 - 8 = i by omega,
     show 16 + i - 8 - 8 = i by omega, show 8 + i - 8 = i by omega, show ¬ 24 + i - 8 - 8 < 8 by omega,show ¬ 24 + i - 8 < 8 by omega, show ¬ 16 + i - 8 < 8 by omega]
theorem word32_bytes (s : List Byte) (i k : Nat) (hk : k < 4) :
    (be32 (word32 s i))[k]? = some (s.getD (4 * i + k) 0) := by
  rw [word32_eq_append, be32_append]; interval_cases k <;> rfl
theorem append_be32 (w : Word) : (w.extractLsb' 24 8 ++ w.extractLsb' 16 8 ++ w.extractLsb' 8 8 ++ w.extractLsb' 0 8 : BitVec 32) = w := by
  apply BitVec.eq_of_getLsbD_eq
  intro i hi
  have e := @BitVec.getLsbD_append
  rw [e, e, e]
  simp only [BitVec.getLsbD_extractLsb']
  by_cases h1 : i < 8
  · simp [h1]
  · by_cases h2 : i - 8 < 8
    · simp [h1, h2, show 8 + (i-8) = i by omega]
    · by_cases h3 : i - 8 - 8 < 8
      · simp [h1, h2, h3, show 16 + (i-8-8) = i by omega]
      · simp [h1, h2, h3, show i - 8 - 8 - 8 < 8 by omega, show 24 + (i-8-8-8) = i by omega]
/-- word i of the bytes of the words is word i. -/
theorem word32_flatMap_be32 (l : List Word) (i : Nat) (hi : i < l.length) : word32 (l.flatMap be32) i = l.getD i 0 := by
  rw [word32_eq_append]
  induction l generalizing i with
  | nil => simp at hi
  | cons w l ih =>
    cases i with
    | zero => exact append_be32 w
    | succ i => 
      have := ih i (by simpa using hi)
      have key : ∀ k, ((w :: l).flatMap be32).getD (4 * (i+1) + k) 0 = (l.flatMap be32).getD (4 * i + k) 0 := by
        intro k
        rw [List.flatMap_cons, List.getD_append_right _ _ _ _ (by simp; omega), length_be32]; congr 1; omega
      have k0 := key 0
      simp only [Nat.add_zero] at k0
      rw [k0, key 1, key 2, key 3, this, List.getD_cons_succ]
end Sys2Proof.Machine
end

