-- ==== Sys2Proof/Laws/Compression.lean ====
section
/-! SUPPORT. The compression function: what its parts depend on, and how whole messages are cut into blocks. -/

namespace Sys2Proof.Machine

/-! ## One block -/

theorem feedForward_toList (v : Vector Word 8) (r : Work) :
    (feedForward v r).toList = [r.a ^^^ v[0], r.b ^^^ v[1], r.c ^^^ v[2], r.d ^^^ v[3],
      r.e ^^^ v[4], r.f ^^^ v[5], r.g ^^^ v[6], r.h ^^^ v[7]] := rfl

/-- The expansion only appends. -/
theorem expandBy_eq_append (n : Nat) (ws : List Word) : ∃ l, expandBy n ws = ws ++ l ∧ l.length = n := by
  induction n generalizing ws with
  | zero => exact ⟨[], by simp [expandBy], rfl⟩
  | succ n ih =>
    obtain ⟨l, h, hl⟩ := ih (ws ++ [nextWord ws])
    exact ⟨nextWord ws :: l, by rw [expandBy, h]; simp, by simp [hl]⟩

theorem byteAt_append (a b : List Byte) (k : Nat) (h : k < a.length) : byteAt (a ++ b) k = byteAt a k := by
  rw [byteAt, byteAt, List.getD_append _ _ _ _ h]

/-- The message words of a block depend on its 64 bytes only. -/
theorem messageWords_append (a b : List Byte) (h : 64 ≤ a.length) : messageWords (a ++ b) = messageWords a := by
  apply List.map_congr_left
  intro i hi
  simp only [List.mem_range] at hi
  simp only [word32, byteAt_append a b (4 * i) (by omega), byteAt_append a b (4 * i + 1) (by omega),
    byteAt_append a b (4 * i + 2) (by omega), byteAt_append a b (4 * i + 3) (by omega)]

theorem cf_congr (v : Vector Word 8) {a b : List Byte} (h : messageWords a = messageWords b) : cf v a = cf v b := by
  have e : expandedWords a = expandedWords b := by unfold expandedWords; rw [h]
  unfold cf
  rw [e]

theorem cf_append (v : Vector Word 8) (a b : List Byte) (h : 64 ≤ a.length) : cf v (a ++ b) = cf v a :=
  cf_congr v (messageWords_append a b h)

/-! ## Messages -/

theorem compressBlocks_append (a b : Nat) (v : Vector Word 8) (s t : List Byte) (h : s.length = 64 * a) :
    compressBlocks (a + b) v (s ++ t) = compressBlocks b (compressBlocks a v s) t := by
  induction a generalizing v s with
  | zero =>
    obtain rfl : s = [] := List.eq_nil_of_length_eq_zero h
    simp [compressBlocks]
  | succ a ih =>
    rw [show a + 1 + b = (a + b) + 1 by omega, compressBlocks, compressBlocks,
      List.take_append_of_le_length (by omega), List.drop_append_of_le_length (by omega)]
    exact ih _ _ (by rw [List.length_drop]; omega)

theorem compressBlocks_append_right (n : Nat) (v : Vector Word 8) (s t : List Byte) (h : 64 * n ≤ s.length) :
    compressBlocks n v (s ++ t) = compressBlocks n v s := by
  induction n generalizing v s with
  | zero => rfl
  | succ n ih =>
    rw [compressBlocks, compressBlocks, List.take_append_of_le_length (by omega),
      List.drop_append_of_le_length (by omega)]
    exact ih _ _ (by rw [List.length_drop]; omega)

theorem compressWhole_of_length_lt (v : Vector Word 8) (s : List Byte) (h : s.length < 64) : compressWhole v s = v := by
  unfold compressWhole
  rw [Nat.div_eq_of_lt h]
  rfl

theorem compressWhole_of_one_block (v : Vector Word 8) (s : List Byte) (h : 64 ≤ s.length) (h2 : s.length < 128) :
    compressWhole v s = cf v (s.take 64) := by
  unfold compressWhole
  rw [show s.length / 64 = 1 by omega]
  rfl

/-- Compressing a message in two parts: the whole blocks of the first, then its rest in front of the second. -/
theorem compressWhole_append (v : Vector Word 8) (s t : List Byte) :
    compressWhole v (s ++ t) = compressWhole (compressWhole v s) (s.drop (64 * (s.length / 64)) ++ t) := by
  unfold compressWhole
  have e1 : (s ++ t).length / 64 = s.length / 64 + (s.drop (64 * (s.length / 64)) ++ t).length / 64 := by
    simp only [List.length_append, List.length_drop]; omega
  have h3 : (s.take (64 * (s.length / 64))).length = 64 * (s.length / 64) := by
    rw [List.length_take]; omega
  have e3 : compressBlocks (s.length / 64) v s = compressBlocks (s.length / 64) v (s.take (64 * (s.length / 64))) :=
    (congrArg (compressBlocks _ v) (List.take_append_drop (64 * (s.length / 64)) s).symm).trans
      (compressBlocks_append_right _ v _ _ h3.ge)
  have e2 : s ++ t = s.take (64 * (s.length / 64)) ++ (s.drop (64 * (s.length / 64)) ++ t) := by
    rw [← List.append_assoc, List.take_append_drop]
  rw [e1, e3]
  exact (congrArg (compressBlocks _ v) e2).trans (compressBlocks_append _ _ _ _ _ h3)

end Sys2Proof.Machine
end

