-- ==== Sys2Proof/Laws/PerInstr.lean ====
section
/-! SUPPORT. Laws stated per command. EncodingLegal: the encoding of a well-formed command is a legal word, with the command's
own opcode and zeros in RES0 and RES1 (30_encoding.md R80, R81, R84). -/

namespace Sys2Proof

/-- The opcode of each command (30_encoding.md R81). -/
def opcodeOf : Instr → BitVec 4
  | .init => 1
  | .update _ => 2
  | .finalize => 3
  | .resume => 4
  | .pad => 5

/-- What EncodingLegal says of one command. -/
def Laws.EncodingLegal.Statement (i : Instr) : Prop :=
  i.wellFormed = true →
    legal (encode i) = true ∧ opField (encode i) = opcodeOf i ∧ res0Field (encode i) = 0 ∧ res1Field (encode i) = 0

theorem Laws.EncodingLegal.init : Laws.EncodingLegal.Statement .init := fun _ => by decide

theorem Laws.EncodingLegal.update (n : BitVec 7) : Laws.EncodingLegal.Statement (.update n) := by
  unfold Laws.EncodingLegal.Statement
  revert n
  decide

theorem Laws.EncodingLegal.finalize : Laws.EncodingLegal.Statement .finalize := fun _ => by decide

theorem Laws.EncodingLegal.resume : Laws.EncodingLegal.Statement .resume := fun _ => by decide

theorem Laws.EncodingLegal.pad : Laws.EncodingLegal.Statement .pad := fun _ => by decide

end Sys2Proof
end

