-- ==== Sys2Proof/Laws/Step.lean ====
section
/-! SUPPORT. Once and for all, what a command can do and what a step can do. -/

namespace Sys2Proof.Machine

/-- A command answers a next state with the same word in flight and the same latency, and if it ends with a code other than
OK that state is s with the code set (60_exceptions.md R206). -/
theorem exec_spec (i : Instr) (s : State) :
    ∃ t, exec i s = .next t ∧ t.pending = s.pending ∧ t.latencyLeft = s.latencyLeft ∧
      (t.err ≠ .ok → t = s.setErr t.err) := by
  cases i with
  | init => exact ⟨_, rfl, rfl, rfl, by simp⟩
  | resume => exact ⟨_, rfl, rfl, rfl, by simp⟩
  | update n =>
    rcases execUpdate_cases n s with ⟨_, h⟩ | ⟨_, h⟩ | ⟨_, _, h⟩ | ⟨_, _, h⟩
    · exact ⟨_, h, rfl, rfl, by simp⟩
    · exact ⟨_, h, rfl, rfl, by simp⟩
    · exact ⟨_, h, rfl, rfl, by simp⟩
    · rcases s.absorb_cases (s.buf ++ s.chunk n.toNat) with ⟨_, ha⟩ | ⟨_, ha⟩ <;> rw [ha] at h <;>
        exact ⟨_, h, rfl, rfl, by simp⟩
  | finalize => rcases execFinalize_cases s with ⟨_, h⟩ | ⟨_, h⟩ | ⟨_, h⟩ <;> exact ⟨_, h, rfl, rfl, by simp⟩
  | pad => rcases execPad_cases s with ⟨_, h⟩ | ⟨_, h⟩ <;> exact ⟨_, h, rfl, rfl, by simp⟩

/-- Everything a step can do: a host step, the completion of an illegal word, or the completion of a command. -/
theorem step_cases {s t : State} (h : step s = .next t) :
    (s.coreTurn = false ∧ hostStep s.tick = .next t) ∨
    (s.coreTurn = true ∧ ∃ c, s.pending = some c ∧ s.latencyLeft = 0 ∧
      (((∃ e, decode c = .error e) ∧ t = (s.setErr .illegal).retire) ∨
        ∃ i u, decode c = .ok i ∧ exec i s = .next u ∧ t = u.retire)) := by
  cases hc : s.coreTurn with
  | false => exact .inl ⟨rfl, step_of_hostTurn hc ▸ h⟩
  | true =>
    obtain ⟨hb, hl⟩ := (coreTurn_iff s).mp hc
    obtain ⟨c, hp⟩ := Option.isSome_iff_exists.mp hb
    rw [step_of_coreTurn hc, coreStep_of_pending hp] at h
    refine .inr ⟨rfl, c, hp, hl, ?_⟩
    cases hd : decode c with
    | error e =>
      rw [perform_of_illegal s hd] at h
      cases h
      exact .inl ⟨⟨e, rfl⟩, rfl⟩
    | ok i =>
      obtain ⟨u, hu, -⟩ := exec_spec i s
      rw [perform_of_legal s hd, hu] at h
      cases h
      exact .inr ⟨i, u, rfl, hu, rfl⟩

/-- The host's accesses leave the hash context and the padding outputs alone, and while a command is in flight the input
registers and the command too: only a reset does not (20_memory.md R68, R69, R73). -/
theorem hostStep_frame {s t : State} (h : hostStep s = .next t) (hr : ¬ s.resetNext) :
    t.v = s.v ∧ t.cnt = s.cnt ∧ t.buf = s.buf ∧ t.phase = s.phase ∧ t.padnb = s.padnb ∧ t.padout = s.padout ∧
    (s.busy = true →
      t.cntin = s.cntin ∧ t.din = s.din ∧ t.msg = s.msg ∧ t.padlen = s.padlen ∧ t.pending = s.pending) := by
  rcases hostStep_cases s with ⟨_, e⟩ | ⟨rest, hx, e⟩ | ⟨rest, off, _, e⟩ | ⟨ins, off, w, _, e⟩ |
    ⟨rest, width, off, w, _, _, e⟩ <;> rw [e] at h <;> cases h
  · simp
  · exact (hr (by show s.inputs.head? = _; simp [hx])).elim
  · simp
  · rcases (s.setInputs ins).afterRead_cases off with e | e <;> rw [e] <;> simp
  · rcases (s.setInputs rest).regWrite_cases off w with ⟨_, e | e⟩ | ⟨hb, e⟩ | ⟨hb, e⟩
    · rw [e]; simp
    · rw [e]; simp
    · have hb : s.busy = false := hb
      rw [e]; simp [hb]
    · have hb : s.busy = false := hb
      rw [e]
      rcases (s.setInputs rest).writeInput_cases w (regAt off) with e | ⟨_, e⟩ | ⟨_, e⟩ | ⟨_, e⟩ | ⟨_, e⟩ <;>
        rw [e] <;> simp [hb]

/-! Each branch of a meaning as one equation under its condition. -/

theorem execUpdate_of_refusal {s : State} {e : ErrCode} (n : BitVec 7) (h : s.phase.refusal = some e) :
    execUpdate n s = .next (s.setErr e) := by simp [execUpdate, h]
theorem execUpdate_of_long {s : State} {n : BitVec 7} (h : s.phase.refusal = none) (hl : s.updateTooLong n.toNat = true) :
    execUpdate n s = .next (s.setErr .length) := by simp [execUpdate, h, hl]
theorem State.absorb_of_lt {s : State} {b : List Byte} (h : b.length < 64) :
    s.absorb b = s.setContext s.v s.cnt b s.phase := if_neg (Nat.not_le.mpr h)
theorem State.absorb_of_ge {s : State} {b : List Byte} (h : 64 ≤ b.length) :
    s.absorb b = s.setContext (cf s.v (b.take 64)) (s.cnt + 512) (b.drop 64) s.phase := if_pos h
theorem execUpdate_of_lt {s : State} {n : BitVec 7} (h : s.phase.refusal = none) (hl : s.updateTooLong n.toNat = false)
    (hb : (s.buf ++ s.chunk n.toNat).length < 64) :
    execUpdate n s = .next ((s.setContext s.v s.cnt (s.buf ++ s.chunk n.toNat) s.phase).setErr .ok) := by
  simp only [execUpdate, h, hl, State.absorb_of_lt hb]; rfl
theorem execUpdate_of_ge {s : State} {n : BitVec 7} (h : s.phase.refusal = none) (hl : s.updateTooLong n.toNat = false)
    (hb : 64 ≤ (s.buf ++ s.chunk n.toNat).length) :
    execUpdate n s = .next ((s.setContext (cf s.v ((s.buf ++ s.chunk n.toNat).take 64)) (s.cnt + 512)
      ((s.buf ++ s.chunk n.toNat).drop 64) s.phase).setErr .ok) := by
  simp only [execUpdate, h, hl, State.absorb_of_ge hb]; rfl
theorem execFinalize_of_refusal {s : State} {e : ErrCode} (h : s.phase.refusal = some e) :
    execFinalize s = .next (s.setErr e) := by simp [execFinalize, h]
theorem execFinalize_of_active {s : State} (h : s.phase.refusal = none) :
    execFinalize s = .next ((s.setContext (finalizeChaining s.v s.buf s.totalBits)
      (BitVec.ofNat 64 s.totalBits) [] .final).setErr .ok) := by simp [execFinalize, h]
theorem execPad_of_long {s : State} (h : s.padTooLong = true) : execPad s = .next (s.setErr .length) := by
  simp [execPad, h]
theorem execPad_of_fits {s : State} (h : s.padTooLong = false) :
    execPad s = .next ((s.setPadding (BitVec.ofNat 7 (paddingFor s.padBytes).length)
      (bytesWords 18 (paddingFor s.padBytes))).setErr .ok) := by simp [execPad, h]

/-- No command reads or writes PENDING or what is outside the block: other values of them change nothing else. -/
theorem exec_hostFields (i : Instr) (s : State) :
    ∃ t, exec i s = .next t ∧ ∀ p l ls ins rs d,
      exec i { s with pending := p, latencyLeft := l, latencies := ls, inputs := ins, responses := rs, draws := d } =
        .next { t with pending := p, latencyLeft := l, latencies := ls, inputs := ins, responses := rs, draws := d } := by
  cases i with
  | init => exact ⟨_, rfl, fun _ _ _ _ _ _ => rfl⟩
  | resume => exact ⟨_, rfl, fun _ _ _ _ _ _ => rfl⟩
  | update n =>
    cases hp : s.phase.refusal with
    | some e => exact ⟨_, execUpdate_of_refusal n hp, fun _ _ _ _ _ _ => execUpdate_of_refusal n hp⟩
    | none =>
      cases hl : s.updateTooLong n.toNat with
      | true => exact ⟨_, execUpdate_of_long hp hl, fun _ _ _ _ _ _ => execUpdate_of_long hp hl⟩
      | false =>
        by_cases hb : (s.buf ++ s.chunk n.toNat).length < 64
        · exact ⟨_, execUpdate_of_lt hp hl hb, fun _ _ _ _ _ _ => execUpdate_of_lt hp hl hb⟩
        · have hb := Nat.not_lt.mp hb
          exact ⟨_, execUpdate_of_ge hp hl hb, fun _ _ _ _ _ _ => execUpdate_of_ge hp hl hb⟩
  | finalize =>
    cases hp : s.phase.refusal with
    | some e => exact ⟨_, execFinalize_of_refusal hp, fun _ _ _ _ _ _ => execFinalize_of_refusal hp⟩
    | none => exact ⟨_, execFinalize_of_active hp, fun _ _ _ _ _ _ => execFinalize_of_active hp⟩
  | pad =>
    cases hl : s.padTooLong with
    | true => exact ⟨_, execPad_of_long hl, fun _ _ _ _ _ _ => execPad_of_long hl⟩
    | false => exact ⟨_, execPad_of_fits hl, fun _ _ _ _ _ _ => execPad_of_fits hl⟩

/-- A host step that writes a register while BUSY = 0 (20_memory.md R68). -/
theorem step_of_write {s : State} {r : Reg} {w : Word} {rest : List Input} (hi : s.inputs = wr r w :: rest)
    (hb : s.busy = false) : step s = .next ((s.tick.setInputs rest).regWrite r.offset w) := by
  rw [step_of_hostTurn (by simp [State.coreTurn, hb])]
  simp [hostStep, hi, wr, busWrite, finishAccess]

/-- A host step that reads a register while BUSY = 0 (20_memory.md R67). -/
theorem step_of_read {s : State} {r : Reg} {rest : List Input} (hi : s.inputs = rd r :: rest) (hb : s.busy = false) :
    step s = .next ((s.tick.setInputs rest).respond (.value r.offset (s.regValue r))) := by
  rw [step_of_hostTurn (by simp [State.coreTurn, hb])]
  have hd : (s.tick.setInputs rest).drawsOn r = false := State.drawsOn_idle r hb
  have hv : (s.tick.setInputs rest).regValue r = s.regValue r := by cases r <;> rfl
  simp [hostStep, hi, rd, busRead_offset hd, hv, finishAccess]

/-- One turn of WAIT, on the host's turn (30_encoding.md R88). -/
theorem step_of_poll {s : State} {rest : List Input} (hi : s.inputs = .poll :: rest)
    (ht : s.coreTurn = false) : step s = .next ((s.tick.setInputs (if s.busy then s.inputs else rest)).respond
      (.value Reg.status.offset s.status)) := by
  rw [step_of_hostTurn ht]
  have hd : ∀ ins, (s.tick.setInputs ins).drawsOn .status = false := fun _ => by simp [State.drawsOn, Reg.anyWhileBusy]
  have he : s.tick.setInputs s.inputs = s.tick := rfl
  have hs : s.tick.inputs = .poll :: rest := hi
  have hb' : s.tick.busy = s.busy := rfl
  unfold hostStep
  simp only [hs, hb']
  cases hb : s.busy with
  | true =>
    have := busRead_offset (hd s.inputs)
    rw [he] at this
    rw [if_pos rfl, this, if_pos rfl, he]; rfl
  | false => rw [if_neg (by simp), busRead_offset (hd rest)]; rfl

/-- One more step of a run. -/
theorem run_succ {s t : State} (n : Nat) (h : step s = .next t) :
    Host.Core.run Sys2Proof.core (n + 1) s = Host.Core.run Sys2Proof.core n t := by
  have hs : Sys2Proof.core.step s = .next t := h
  simp only [Host.Core.run]
  exact (by rw [hs])

/-- A run of m + n steps is a run of m and then one of n. -/
theorem run_add {s t : State} (m n : Nat) (h : Host.Core.run Sys2Proof.core m s = .next t) :
    Host.Core.run Sys2Proof.core (m + n) s = Host.Core.run Sys2Proof.core n t := by
  induction m generalizing s with
  | zero => rw [Nat.zero_add]; cases h; rfl
  | succ m ih =>
    cases hs : step s with
    | next u =>
      rw [show m + 1 + n = (m + n) + 1 by omega, run_succ _ hs]
      exact ih ((run_succ m hs).symm.trans h)
    | fault r =>
      have hs : Sys2Proof.core.step s = .fault r := hs
      simp only [Host.Core.run] at h
      rw [hs] at h; cases h
    | refused r =>
      have hs : Sys2Proof.core.step s = .refused r := hs
      simp only [Host.Core.run] at h
      rw [hs] at h; cases h

end Sys2Proof.Machine
end

