-- ==== Sys2Proof/Tests/Slice0.lean ====
section
/-! SUPPORT. The model's own tests: expected values are those of spec/95_test_vectors.md (V1 to V21) and of the rules' own
examples; and, for every statement with hypotheses, a witness that meets them all, at the boundary of each clause. -/

namespace Sys2Proof.Tests

open Sys2Proof.Machine

/-! ## Helpers -/

/-- The next state of an outcome. -/
def nextOf : Host.Outcome State Fault Refusal → Option State
  | .next t => some t
  | .fault _ => none
  | .refused _ => none

/-- What f reads of the next state. -/
def see {α : Type} (f : State → α) (o : Host.Outcome State Fault Refusal) : Option α := (nextOf o).map f

/-- An ACTIVE context as INIT starts it, with these bytes buffered. -/
def active (buf : List Byte) : State := { State.reset with v := iv, phase := .active, buf := buf }

/-- A state with command word c due for completion. -/
def due (c : Word) (s : State) : State := { s with pending := some c }

/-- A state in which the host does these things next. -/
def host (l : List Input) (s : State) : State := { s with inputs := l }

/-- A state with a command in flight and host steps before its completion. -/
def busyFor (n : Nat) : State := { State.reset with pending := some 1, latencyLeft := n }

def abc : List Byte := [0x61, 0x62, 0x63]

/-! ## Well-formedness and decoding (30_encoding.md R83, R84; V21) -/

theorem test_update65_ill_formed : (Instr.update 65).wellFormed = false := by decide
theorem test_update127_ill_formed : (Instr.update 127).wellFormed = false := by decide
theorem test_update64_well_formed : (Instr.update 64).wellFormed = true := by decide

theorem test_decode_init : decode 0b00000000000000000000000000000001 = .ok .init := by rfl
theorem test_decode_update3 : decode 0b00000000000000000000001100000010 = .ok (.update 3) := by rfl
theorem test_decode_update64 : decode 0b00000000000000000100000000000010 = .ok (.update 64) := by rfl
theorem test_decode_finalize : decode 0b00000000000000000000000000000011 = .ok .finalize := by rfl
theorem test_decode_resume : decode 0b00000000000000000000000000000100 = .ok .resume := by rfl
theorem test_decode_pad : decode 0b00000000000000000000000000000101 = .ok .pad := by rfl
theorem test_decode_update127 : decode 0x00007F02 = .error .nbytesOver64 := by rfl
theorem test_decode_res1_bit15 : decode 0x00008002 = .error .res1NotZero := by rfl
theorem test_decode_res0_bit4 : decode 0x00000011 = .error .res0NotZero := by rfl
theorem test_decode_op15 : decode 0x0000000F = .error .opReserved := by rfl
theorem test_decode_nbytes_with_init : decode 0x00000101 = .error .nbytesNotZero := by rfl
theorem test_legal_words : [0x1, 0x2, 0x4002, 0x3, 0x4, 0x5].all legal = true := by decide
theorem test_illegal_words :
    [0x4102, 0x7F02, 0x105, 0x80000002, 0xF2, 0, 7, 0xFFFFFFFF].all (fun c => !legal c) = true := by decide
theorem test_table_word : decodeTableWord 32 0x302 = some (.update 3) := by decide
theorem test_encode_update64 : encode (.update 64) = 0x00004002 := by decide

/-! ## The compression function (V1, V3, V5) -/

theorem test_rotl : rotl 0x12345678 7 = 0x1A2B3C09 ∧ rotl 0x12345678 32 = 0x12345678 := by decide
theorem test_p0 : p0 0x12345678 = 0xD6688234 ∧ p0 0x80000000 = 0x80010100 := by decide
theorem test_p1 : p1 0x12345678 = 0x05014549 ∧ p1 0x80000000 = 0x80404000 := by decide
theorem test_round_constants : [0, 1, 15, 16, 32, 33, 63].map roundConst =
    [0x79CC4519, 0xF3988A32, 0x228CBCE6, 0x9D8A7A87, 0x7A879D8A, 0xF50F3B14, 0x3D43CEC5] := by decide
theorem test_ff : [0, 15, 16, 63].map (fun j => ff j 0x0F0F0F0F 0x00FF00FF 0x33333333) =
    [0x3CC33CC3, 0x3CC33CC3, 0x033F033F, 0x033F033F] := by decide
theorem test_gg : [0, 15, 16, 63].map (fun j => gg j 0x0F0F0F0F 0x00FF00FF 0x33333333) =
    [0x3CC33CC3, 0x3CC33CC3, 0x303F303F, 0x303F303F] := by decide
theorem test_expansion : [16, 19, 63, 67].map (wAt (expandedWords (abc ++ paddingFor 3))) =
    [0x9092E200, 0x719C70ED, 0xF07E6590, 0xB99C0545] := by decide +kernel
theorem test_cf_abc : cf iv (abc ++ paddingFor 3) =
    #v[0x66C7F0F4, 0x62EEEDD9, 0xD1F2D46B, 0xDC10E4E2, 0x4167C487, 0x5CF2F7A2, 0x297DA02B, 0x8F4BA8E0] := by
  decide +kernel

/-! ## The commands (V6 to V13) -/

theorem test_init : see (fun t => (t.v.get 7, t.phase, t.status)) (exec .init State.reset) =
    some (0xB0FB0E4E, .active, 2) := by decide
theorem test_init_leaves_final : see State.status (exec .init { State.reset with phase := .final }) = some 2 := by decide

theorem test_update_abc : see (fun t => (t.buf, t.cnt, t.v, t.status))
    (exec (.update 3) { active [] with msg := State.reset.msg.set 0 0x616263FF }) = some (abc, 0, iv, 2) := by decide
/-- V2, block 1: "abcd" sixteen times. -/
theorem test_update64_compresses : see (fun t => (t.v, t.cnt, t.buf))
    (exec (.update 64) { active [] with msg := Vector.replicate 16 0x61626364 }) =
    some (#v[0x5950DE81, 0x468664EB, 0x42FD4C86, 0x1E7CA00A, 0xC0A5910B, 0xAE9A55EA, 0x1ADB8D17, 0x763CA222], 512, []) := by
  decide +kernel

theorem test_finalize_abc : see (fun t => (t.v, t.cnt, t.buf, t.status)) (exec .finalize (active abc)) =
    some (#v[0x66C7F0F4, 0x62EEEDD9, 0xD1F2D46B, 0xDC10E4E2, 0x4167C487, 0x5CF2F7A2, 0x297DA02B, 0x8F4BA8E0], 24, [], 4) := by
  decide +kernel
/-- V7, n = 56: the first length with two compressions. -/
theorem test_finalize_56 : see (fun t => (t.v, t.cnt)) (exec .finalize (active (List.replicate 56 0x61))) =
    some (#v[0xBA00EBED, 0xAAB54065, 0xA5FD4F9F, 0x56326016, 0x203166BC, 0xEE3EED44, 0xEA868D59, 0xD67AA3C8], 448) := by
  decide +kernel

theorem test_resume : see (fun t => (t.v.get 3, t.cnt, t.buf, t.status))
    (exec .resume { active abc with din := Vector.replicate 8 5, cntin := 3 }) = some (5, 3, [], 2) := by decide
/-- V9: at 2^64 - 8 one more byte is too many. -/
theorem test_length_bound : see State.status (exec (.update 1) { active [] with cnt := 0xFFFFFFFFFFFFFFF8 }) = some 0x42 ∧
    see State.status (exec (.update 1) { active [] with cnt := 0xFFFFFFFFFFFFFFF7 }) = some 0x02 := by decide

/-- V12: L = 3 and L = 2^61 - 1. -/
theorem test_pad3 : see (fun t => (t.padnb, t.padout.get 0, t.padout.get 14, t.padout.get 15, t.padout.get 16))
    (exec .pad { State.reset with padlen := 3 }) = some (61, 0x80000000, 0, 0x18000000, 0) := by decide
theorem test_pad_max : see (fun t => (t.padnb, t.padout.get 14, t.padout.get 15, t.padout.get 16))
    (exec .pad { State.reset with padlen := 0x1FFFFFFFFFFFFFFF }) =
    some (65, 0x00FFFFFF, 0xFFFFFFFF, 0xF8000000) := by decide

/-! ## Steps: the first command after reset, errors, the window (V14 to V20) -/

theorem test_fetch_init : see State.status (step (State.reset.withFetchWord 32 1)) = some 0x02 := by decide
theorem test_fetch_update : see State.status (step (State.reset.withFetchWord 32 2)) = some 0x20 := by decide
theorem test_fetch_finalize : see State.status (step (State.reset.withFetchWord 32 3)) = some 0x20 := by decide
theorem test_fetch_resume : see State.status (step (State.reset.withFetchWord 32 4)) = some 0x02 := by decide
theorem test_fetch_pad : see State.padnb (step (State.reset.withFetchWord 32 5)) = some 64 := by decide
/-- V14: ILLEGAL takes priority over NOCTX. -/
theorem test_illegal_priority : see State.status (step (due 0x4102 State.reset)) = some 0x10 := by decide
theorem test_finalized : see State.status (step (due 0x302 { State.reset with phase := .final })) = some 0x34 := by decide
/-- V15, steps 3 to 5. -/
theorem test_dropped_write : see (fun t => (t.status, t.msg.get 0))
    (step (host [wr (.msg 0) 0x78787878] { active [] with pending := some 0x302, latencyLeft := 2 })) =
    some (0x0B, 0) := by decide
theorem test_ovr_survives_completion : see State.status (step (due 0x302 { active [] with ovr := true })) =
    some 0x0A := by decide
/-- V15, step 6. -/
theorem test_accept_clears_ovr : see State.status (step (host [wr .cmd 3] { active abc with ovr := true })) =
    some 0x03 := by decide
/-- V16: a busy read of MSG0 is valid. -/
theorem test_busy_read_msg : see (fun t => t.responses.getLast?)
    (step (host [rd (.msg 0)] { busyFor 3 with msg := Vector.replicate 16 7 })) = some (some (.value 0x60 7)) := by decide
/-- V20. -/
theorem test_half_write : see State.cntin (step (host [wr .cntinHi 1] { State.reset with cntin := 0x200 })) =
    some 0x0000000100000200 := by decide
theorem test_write_state0_ignored : see (fun t => (t.v.get 0, t.status)) (step (host [wr (.state 0) 0x12345678] (active []))) =
    some (0x7380166F, 2) := by decide
theorem test_misaligned_read : see (fun t => (t.responses, t.status)) (step (host [.read 32 0x02] State.reset)) =
    some ([.busError 0x02], 0) := by decide
theorem test_narrow_write : see (fun t => (t.responses, t.pending)) (step (host [.write 16 0x04 1] State.reset)) =
    some ([.busError 0x04], none) := by decide
theorem test_reset_while_busy : see (fun t => (t.busy, t.phase)) (step (host [.reset] { busyFor 1 with phase := .final })) =
    some (false, .idle) := by decide
theorem test_register_offsets :
    [Reg.state 7, .din 7, .msg 15, .padout 17, .reserved 0, .reserved 1, .reserved 2].map Reg.offset =
    [0x3C, 0x5C, 0x9C, 0xF4, 0xAC, 0xF8, 0xFC] := by decide
theorem test_register_map : (List.range 64).all (fun k => (slotReg k).offset == BitVec.ofNat 8 (4 * k)) = true := by decide
/-- R88: ABSORB of 65 bytes is LOADMSG of 16 words and UPDATE 64, then LOADMSG of one word and UPDATE 1. -/
theorem test_absorb_ops : (absorbOps (List.replicate 65 0x61)).length = 16 + 2 + 1 + 2 := by decide

/-! ## Witnesses: hypotheses that can be met, at the boundary of each clause -/

theorem witness_DecodeOfEncodeIsTheCommand :
    (Instr.update 0).wellFormed = true ∧ (Instr.update 64).wellFormed = true ∧ Instr.pad.wellFormed = true := by decide
theorem witness_EncodeOfDecodeIsTheWord : decode 0x00004002 = .ok (.update 64) := by rfl
theorem witness_LegalWordsAreThoseThatDecode :
    (decode 0x00004102 = .error .nbytesOver64) ∧ State.reset.busy = false ∧
    (due 0x00004102 State.reset).pending = some 0x00004102 ∧ (due 0x00004102 State.reset).latencyLeft = 0 :=
  ⟨rfl, rfl, rfl, rfl⟩
theorem witness_StepRunsTheDecodedCommand :
    (due 3 (active abc)).pending = some 3 ∧ (due 3 (active abc)).latencyLeft = 0 ∧ decode 3 = .ok .finalize ∧
    ∃ t, exec .finalize (due 3 (active abc)) = .next t := ⟨rfl, rfl, rfl, _, rfl⟩
theorem witness_FetchWordIsPerformedNext :
    (Instr.update 64).wellFormed = true ∧
    ∃ t, exec (.update 64) (State.reset.withFetchWord 32 (encode (.update 64)).toNat) = .next t := ⟨rfl, _, rfl⟩
theorem witness_FailedCommandWritesErrOnly :
    see State.err (step (due 3 State.reset)) = some .noctx ∧ (due 3 State.reset).pending = some 3 ∧
    (due 3 State.reset).latencyLeft = 0 := by decide
theorem witness_OneErrorCodeByPriority :
    legal 0x4102 = false ∧ legal 0x4002 = true ∧ legal 3 = true ∧ legal 1 = true ∧ legal 4 = true ∧ legal 5 = true ∧
    (0x4002 : Word).extractLsb' 0 4 = 2 ∧ (3 : Word).extractLsb' 0 4 = 3 ∧ (active []).phase = .active ∧
    State.reset.phase = .idle := by decide
theorem witness_IdleBlockDoesNothing :
    State.reset.busy = false ∧ State.reset.latencyLeft = 0 ∧ State.reset.inputs = [] := ⟨rfl, rfl, rfl⟩
theorem witness_ResetInputDiscardsTheCommandInFlight :
    (host [.reset] (busyFor 1)).inputs = [.reset] ∧ (busyFor 1).pending = some 1 ∧ (busyFor 1).latencyLeft ≠ 0 := by decide
/-- A state at the bounds of (a), (b) and (e) of R34. -/
theorem witness_EveryStepKeepsTheInvariant :
    State.Inv { active (List.replicate 63 0) with cnt := 0xFFFFFFFFFFFFFE07, padnb := 72 } ∧
    ∃ t, step (active (List.replicate 63 0)) = .next t := ⟨by decide, _, rfl⟩
theorem witness_EveryStepKeepsPaddingOutputsExact :
    State.PadInv State.reset ∧
    State.PadInv { State.reset with padnb := 72, padout := bytesWords 18 (paddingFor 56) } ∧
    ∃ t, step (due 5 State.reset) = .next t := ⟨.inl ⟨rfl, rfl⟩, .inr ⟨56, by decide, by decide, rfl⟩, _, rfl⟩
/-- n = 0 and n = 64; the range test at its last allowed and first refused value; |b| = 63 and 64. -/
theorem witness_UpdateAbsorbsTheChunk :
    (0 : BitVec 7).toNat ≤ 64 ∧ (64 : BitVec 7).toNat ≤ 64 ∧ 64 < (65 : BitVec 7).toNat ∧ (active []).phase = .active ∧
    (0xFFFFFFFFFFFFFFF7 : DWord).toNat + 8 * ((active []).buf.length + (1 : BitVec 7).toNat) ≤ 2 ^ 64 - 1 ∧
    (0xFFFFFFFFFFFFFFF8 : DWord).toNat + 8 * ((active []).buf.length + (1 : BitVec 7).toNat) > 2 ^ 64 - 1 ∧
    (active (List.replicate 63 0)).buf.length ≤ 63 ∧ ((active (List.replicate 62 0)).buf.length + 1 < 64) ∧
    64 ≤ (active (List.replicate 63 0)).buf.length + 1 := by decide
theorem witness_FinalizePadsAndEmitsTheDigest :
    (active (List.replicate 55 0)).buf.length < 56 ∧ 56 ≤ (active (List.replicate 56 0)).buf.length ∧
    (active (List.replicate 63 0)).buf.length ≤ 63 ∧
    (0xFFFFFFFFFFFFFE07 : DWord).toNat + 8 * (active (List.replicate 63 0)).buf.length ≤ 2 ^ 64 - 1 := by decide
theorem witness_ResumeInstallsDigestAndCount :
    (State.cntin { State.reset with cntin := 0xFFFFFFFFFFFFFFFF }).toNat = 2 ^ 64 - 1 ∧ 1 ≤ (1 : BitVec 7).toNat ∧
    (1 : BitVec 7).toNat ≤ 64 ∧ 1 ≤ (64 : BitVec 7).toNat ∧ (64 : BitVec 7).toNat ≤ 64 := by decide
theorem witness_PadWritesTheExactPadding :
    (0x1FFFFFFFFFFFFFFF : DWord).toNat < 2 ^ 61 ∧ (0x2000000000000000 : DWord).toNat ≥ 2 ^ 61 ∧
    (55 : DWord).toNat % 64 = 55 ∧ (56 : DWord).toNat % 64 = 56 := by decide
theorem witness_PaddingAndContextAreSeparate : Instr.update 3 ≠ .pad ∧
    see State.err (exec .pad { State.reset with padlen := 0x2000000000000000 }) = some .length := by decide
/-- Two states that agree on the context and MSG and differ in PADLEN. -/
theorem witness_HashCommandsReadOnlyContextAndMsg :
    (active abc).v = (State.setPadlen (active abc) 9).v ∧ (active abc).cnt = (State.setPadlen (active abc) 9).cnt ∧
    (active abc).buf = (State.setPadlen (active abc) 9).buf ∧ (active abc).phase = (State.setPadlen (active abc) 9).phase ∧
    (active abc).msg = (State.setPadlen (active abc) 9).msg ∧ active abc ≠ State.setPadlen (active abc) 9 := by decide
theorem witness_OnlyContextCommandsChangeTheChainingState :
    see (fun t => decide (t.v ≠ (due 1 State.reset).v)) (step (due 1 State.reset)) = some true ∧
    see (fun t => decide (t.v ≠ (active []).v)) (step (host [.reset] (active []))) = some true := by decide
theorem witness_OnlyPadChangesThePaddingOutputs :
    see (fun t => decide (t.padnb ≠ (due 5 State.reset).padnb)) (step (due 5 State.reset)) = some true := by decide
theorem witness_InputsAreFixedWhileBusy :
    (busyFor 0).busy = true ∧ ¬ ((busyFor 0).coreTurn = false ∧ (busyFor 0).resetNext) ∧
    (host [wr (.msg 0) 1] (busyFor 1)).busy = true ∧ ¬ (host [wr (.msg 0) 1] (busyFor 1)).resetNext ∧
    (∃ t, step (busyFor 0) = .next t) ∧ ∃ t, step (host [wr (.msg 0) 1] (busyFor 1)) = .next t :=
  ⟨rfl, by decide, rfl, by decide, ⟨_, rfl⟩, _, rfl⟩
theorem witness_RegisterMapReadsEachRegister :
    State.reset.busy = false ∧ (active (List.replicate 63 0)).buf.length ≤ 63 := by decide
theorem witness_ReadsWhileBusyAreValidOrFree :
    (busyFor 1).busy = true ∧ (0x20 : Offset) = 0x20 + 4 * BitVec.ofNat 8 (0 : Fin 8) ∧
    (0xF4 : Offset) = 0xB0 + 4 * BitVec.ofNat 8 (17 : Fin 18) := by decide
theorem witness_HostReadAnswersAndChangesNothing :
    (host [.read 32 0xFC] State.reset).inputs = [.read 32 0xFC] ∧ (0xFC : Offset).toNat % 4 = 0 ∧
    State.reset.pending = none ∧ (busyFor 1).latencyLeft ≠ 0 ∧
    (host [.poll] State.reset).inputs = [.poll] ∧ (host [.poll] (busyFor 1)).inputs = [.poll] := by decide
theorem witness_CommandWriteIsAcceptedWhenIdle :
    (host [.write 32 0x04 1] State.reset).inputs = [.write 32 0x04 1] ∧ State.reset.busy = false ∧
    (State.latencies { State.reset with latencies := [7] }) = 7 :: [] := by decide
theorem witness_WritesWhileBusyAreDropped :
    (host [.write 32 0x9C 1] (busyFor 1)).inputs = [.write 32 0x9C 1] ∧ (busyFor 1).busy = true ∧
    (busyFor 1).latencyLeft ≠ 0 ∧ (0x9C : Offset) = 0x60 + 4 * BitVec.ofNat 8 (15 : Fin 16) ∧
    see State.ovr (step (host [wr .cmd 1] { State.reset with ovr := true })) = some false := by decide
theorem witness_InputRegisterWritesStoreTheirWord : State.reset.busy = false := rfl
theorem witness_HostWritePerformsRegWrite :
    (host [.write 32 0xFC 1] (busyFor 1)).inputs = [.write 32 0xFC 1] ∧ (0xFC : Offset).toNat % 4 = 0 ∧
    (busyFor 1).latencyLeft ≠ 0 := by decide
theorem witness_ReadOnlyAndReservedWritesAreIgnored :
    (0xFC : Offset) ∈ [0xAC, 0xF8, 0xFC] ∧ (0xA8 : Offset) ∈ [0x00, 0x08, 0x0C, 0x10, 0x14, 0xA8] ∧
    (0x3C : Offset) = 0x20 + 4 * BitVec.ofNat 8 (7 : Fin 8) := by decide
theorem witness_RefusedAccessChangesNothing :
    ((16 : Nat) ≠ 32 ∨ (0x04 : Offset).toNat % 4 ≠ 0) ∧ ((32 : Nat) ≠ 32 ∨ (0x03 : Offset).toNat % 4 ≠ 0) ∧
    (host [.read 16 0x04] State.reset).inputs = [.read 16 0x04] ∧ State.reset.pending = none := by decide
theorem witness_WaitEndsWhenTheCommandCompletes :
    (host [.poll] (busyFor 2)).inputs = [.poll] ∧ (host [.poll] (busyFor 2)).busy = true ∧
    (host [.poll] (busyFor 0)).busy = true ∧
    (host [.poll] State.reset).inputs = [.poll] ∧ (host [.poll] State.reset).busy = false := by decide
theorem witness_MessageExpansionFollowsItsRecurrence : (zeros 64).length = 64 := by decide
theorem witness_PaddingFillsTheBlockExactly : 2 ^ 61 - 1 < 2 ^ 61 := by decide
theorem witness_PaddingLaws :
    2 ^ 61 - 1 < 2 ^ 61 ∧ 1 ≤ 1 ∧ 1 < (paddingFor 3).length - 8 ∧ 119 < 2 ^ 61 ∧ 119 % 64 = 55 % 64 := by decide
theorem witness_FeedingCompressesWholeBlocksInOrder :
    (active abc).phase = .active ∧ (active abc).buf.length ≤ 63 ∧ (∀ c ∈ [abc, [], zeros 64], c.length ≤ 64) ∧
    (active abc).cnt.toNat + 8 * ((active abc).buf.length + [abc, [], zeros 64].flatten.length) ≤ 2 ^ 64 - 1 := by decide
theorem witness_ChunkingDoesNotMatter :
    [abc, [], zeros 2].flatten = [[0x61], [0x62, 0x63, 0, 0]].flatten ∧ (∀ c ∈ [abc, [], zeros 2], c.length ≤ 64) ∧
    (∀ c ∈ [[0x61], [0x62, 0x63, 0, (0 : Byte)]], c.length ≤ 64) ∧
    (active []).cnt.toNat + 8 * ((active []).buf.length + [abc, [], zeros 2].flatten.length) ≤ 2 ^ 64 - 1 := by decide
theorem witness_FinalizeAgreesWithThePaddingCalculator :
    (active (zeros 63)).phase = .active ∧ (active (zeros 63)).buf.length ≤ 63 ∧
    (active (zeros 63)).cnt.toNat + 8 * (active (zeros 63)).buf.length ≤ 2 ^ 64 - 1 ∧
    (active (zeros 63)).cnt.toNat % 512 = 0 := by decide
theorem witness_HashingAMessageGivesItsDigest :
    (∀ c ∈ [zeros 64, abc], c.length ≤ 64) ∧ [zeros 64, abc].flatten.length < 2 ^ 61 := by decide
theorem witness_LengthExtensionLaw :
    abc.length < 2 ^ 61 ∧ (∀ c ∈ [zeros 64, abc], c.length ≤ 64) ∧
    8 * (abc.length + (paddingFor abc.length).length + [zeros 64, abc].flatten.length) ≤ 2 ^ 64 - 1 := by decide
theorem witness_ExportThenResumeRestoresTheContext : (active []).phase = .active ∧ (active []).buf = [] := ⟨rfl, rfl⟩
theorem witness_ResumeInsideABlockNeedsRefeeding :
    (active (zeros 63)).phase = .active ∧ (active (zeros 63)).buf.length ≤ 63 ∧
    (active (zeros 63)).cnt.toNat + 8 * (active (zeros 63)).buf.length ≤ 2 ^ 64 - 1 := by decide
theorem witness_RoundFollowsItsDataFlow : 15 ≤ 63 ∧ 63 ≤ 63 ∧ ¬ (16 ≤ 15) := by decide
/-- LOADMSG of no byte and of 64. -/
theorem witness_HostNotationLoadsItsRegisters :
    State.reset.busy = false ∧ ([] : List Byte).length ≤ 64 ∧ (zeros 64).length ≤ 64 ∧ (zeros 32).length = 32 ∧
    (host (loadMsgOps abc) State.reset).inputs = loadMsgOps abc ++ [] ∧
    (host (loadDigestOps (zeros 32)) State.reset).inputs = loadDigestOps (zeros 32) ++ [] ∧
    (host (setCntOps 512) State.reset).inputs = setCntOps 512 ++ [] ∧
    (host (setPadLenOps 3) State.reset).inputs = setPadLenOps 3 ++ [] := by decide
theorem witness_ReadDigestAnswersTheChainingState :
    State.reset.busy = false ∧ (host readDigestOps State.reset).inputs = readDigestOps ++ [] ∧
    (host checkOps State.reset).inputs = checkOps ++ [] := by decide
theorem witness_ExecPerformsTheCommandAndWaits :
    (Instr.update 64).wellFormed = true ∧ State.reset.busy = false ∧
    (host (execOps (.update 64)) State.reset).inputs = execOps (.update 64) ++ [] := by decide
theorem witness_HashProgramReadsTheDigest :
    abc.length < 2 ^ 61 ∧ State.reset.busy = false ∧
    (host (execOps .init ++ absorbOps abc ++ execOps .finalize ++ readDigestOps) State.reset).inputs =
      execOps .init ++ absorbOps abc ++ execOps .finalize ++ readDigestOps ++ [] := by decide
theorem witness_LengthExtensionProgramReadsTheDigest : ∃ s : State,
    abc.length < 2 ^ 61 ∧ s.busy = false ∧ 8 * (abc.length + (paddingFor abc.length).length + abc.length) ≤ 2 ^ 64 - 1 ∧
    s.inputs = loadDigestOps (wordsBytes (sm3 abc)) ++
      setCntOps (BitVec.ofNat 64 (8 * (abc.length + (paddingFor abc.length).length))) ++ execOps .resume ++
      absorbOps abc ++ execOps .finalize ++ readDigestOps ++ [] :=
  ⟨host _ State.reset, by decide, rfl, by decide, rfl⟩

end Sys2Proof.Tests
end

section
/-! What a command reads and writes: the hash commands the context and the input registers they name, PAD the padding
outputs and PADLEN (10_state.md R28, R29, R32). -/

namespace Sys2Proof.Machine

/-- Two states that agree on all that a hash command may read: the context, MSG, DIN and CNTIN (30_encoding.md R82). -/
structure SameHashOperands (s s' : State) : Prop where
  v : s'.v = s.v
  cnt : s'.cnt = s.cnt
  buf : s'.buf = s.buf
  phase : s'.phase = s.phase
  msg : s'.msg = s.msg
  din : s'.din = s.din
  cntin : s'.cntin = s.cntin

theorem SameHashOperands.refl (s : State) : SameHashOperands s s := ⟨rfl, rfl, rfl, rfl, rfl, rfl, rfl⟩

theorem SameHashOperands.chunk {s s' : State} (h : SameHashOperands s s') (n : Nat) : s'.chunk n = s.chunk n := by
  simp only [State.chunk, State.msgBytes, h.msg]

theorem SameHashOperands.updateTooLong {s s' : State} (h : SameHashOperands s s') (n : Nat) :
    s'.updateTooLong n = s.updateTooLong n := by
  simp only [State.updateTooLong, h.cnt, h.buf]

theorem SameHashOperands.totalBits {s s' : State} (h : SameHashOperands s s') : s'.totalBits = s.totalBits := by
  simp only [State.totalBits, h.cnt, h.buf]

/-- Absorbing writes the context alone, and what it writes is a function of the context. -/
theorem SameHashOperands.absorb {s s' : State} (h : SameHashOperands s s') (b : List Byte) :
    s'.absorb b = s'.setContext (s.absorb b).v (s.absorb b).cnt (s.absorb b).buf (s.absorb b).phase := by
  by_cases hb : b.length < 64
  · simp [State.absorb_of_lt hb, h.v, h.cnt, h.phase]
  · simp [State.absorb_of_ge (Nat.not_lt.mp hb), h.v, h.cnt, h.phase]

theorem execUpdate_of_fits {s : State} {n : BitVec 7} (h : s.phase.refusal = none)
    (hl : s.updateTooLong n.toNat = false) :
    execUpdate n s = .next ((s.absorb (s.buf ++ s.chunk n.toNat)).setErr .ok) := by
  simp [execUpdate, h, hl]

/-- INIT, UPDATE, FINALIZE and RESUME set ERR alone, or install one context, the same in every state with the same
operands (10_state.md R29, R32). -/
theorem exec_hash_effect {i : Instr} (hi : i ≠ .pad) (s : State) :
    (∃ e, ∀ s', SameHashOperands s s' → exec i s' = .next (s'.setErr e)) ∨
    ∃ v cnt buf p, ∀ s', SameHashOperands s s' → exec i s' = .next ((s'.setContext v cnt buf p).setErr .ok) := by
  cases i with
  | init => exact .inr ⟨_, _, _, _, fun _ _ => rfl⟩
  | update n =>
    cases hp : s.phase.refusal with
    | some e => exact .inl ⟨e, fun s' h => execUpdate_of_refusal n (by rw [h.phase, hp])⟩
    | none =>
      cases hl : s.updateTooLong n.toNat with
      | true => exact .inl ⟨.length, fun s' h => execUpdate_of_long (by rw [h.phase, hp]) (by rw [h.updateTooLong, hl])⟩
      | false =>
        let u := s.absorb (s.buf ++ s.chunk n.toNat)
        refine .inr ⟨u.v, u.cnt, u.buf, u.phase, fun s' h => ?_⟩
        rw [← h.absorb, ← h.buf, ← h.chunk]
        exact execUpdate_of_fits (by rw [h.phase, hp]) (by rw [h.updateTooLong, hl])
  | finalize =>
    cases hp : s.phase.refusal with
    | some e => exact .inl ⟨e, fun s' h => execFinalize_of_refusal (by rw [h.phase, hp])⟩
    | none =>
      refine .inr ⟨finalizeChaining s.v s.buf s.totalBits, BitVec.ofNat 64 s.totalBits, [], .final, fun s' h => ?_⟩
      rw [← h.v, ← h.buf, ← h.totalBits]
      exact execFinalize_of_active (by rw [h.phase, hp])
  | resume =>
    refine .inr ⟨s.din, s.cntin, [], .active, fun s' h => ?_⟩
    rw [← h.din, ← h.cntin]
    rfl
  | pad => exact absurd rfl hi

/-- PAD fails with LENGTH, or writes one padding, the same in every state with the same PADLEN (43_padding.md R180). -/
theorem exec_pad_effect (s : State) :
    (∀ s' : State, s'.padlen = s.padlen → exec .pad s' = .next (s'.setErr .length)) ∨
    ∃ nb out, ∀ s' : State, s'.padlen = s.padlen → exec .pad s' = .next ((s'.setPadding nb out).setErr .ok) := by
  cases hl : s.padTooLong with
  | true =>
    exact .inl fun s' h => execPad_of_long (by rw [State.padTooLong, State.padBytes, h]; exact hl)
  | false =>
    refine .inr ⟨BitVec.ofNat 7 (paddingFor s.padBytes).length, bytesWords 18 (paddingFor s.padBytes), fun s' h => ?_⟩
    rw [State.padBytes, ← h]
    exact execPad_of_fits (by rw [State.padTooLong, State.padBytes, h]; exact hl)

/-- Everything a command can write: ERR alone, a context with ERR OK, or, being PAD, the padding outputs with ERR OK. -/
theorem exec_effect (i : Instr) (s : State) :
    (∃ e, exec i s = .next (s.setErr e)) ∨
    (i ≠ .pad ∧ ∃ v cnt buf p, exec i s = .next ((s.setContext v cnt buf p).setErr .ok)) ∨
    (i = .pad ∧ ∃ nb out, exec i s = .next ((s.setPadding nb out).setErr .ok)) := by
  by_cases hi : i = .pad
  · subst hi
    rcases exec_pad_effect s with h | ⟨nb, out, h⟩
    · exact .inl ⟨.length, h s rfl⟩
    · exact .inr (.inr ⟨rfl, nb, out, h s rfl⟩)
  · rcases exec_hash_effect hi s with ⟨e, h⟩ | ⟨v, cnt, buf, p, h⟩
    · exact .inl ⟨e, h s (.refl s)⟩
    · exact .inr (.inl ⟨hi, v, cnt, buf, p, h s (.refl s)⟩)

/-- Settles O21: none of the three effects of a command touches an input register, OVR, PENDING or the outside world. -/
theorem commandsKeepInputRegisters : Obligations.CommandsKeepInputRegisters := by
  intro i s
  rcases exec_effect i s with ⟨e, h⟩ | ⟨-, v, cnt, buf, p, h⟩ | ⟨-, nb, out, h⟩
  all_goals exact ⟨_, h, rfl, rfl, rfl, rfl, rfl, rfl, rfl, rfl, rfl, rfl, rfl⟩

theorem exec_hash_keeps_padding {i : Instr} (hi : i ≠ .pad) {s t : State} (h : exec i s = .next t) :
    t.padnb = s.padnb ∧ t.padout = s.padout := by
  rcases exec_hash_effect hi s with ⟨e, he⟩ | ⟨v, cnt, buf, p, he⟩
  all_goals
    cases (he s (.refl s)).symm.trans h
    exact ⟨rfl, rfl⟩

theorem exec_hash_ignores_padding {i : Instr} (hi : i ≠ .pad) (s : State) (nb : BitVec 7) (out : Vector Word 18) :
    ∃ t, exec i s = .next t ∧ t.padnb = s.padnb ∧ t.padout = s.padout ∧
      exec i { s with padnb := nb, padout := out } = .next { t with padnb := nb, padout := out } := by
  have same : SameHashOperands s { s with padnb := nb, padout := out } := ⟨rfl, rfl, rfl, rfl, rfl, rfl, rfl⟩
  rcases exec_hash_effect hi s with ⟨e, h⟩ | ⟨v, cnt, buf, p, h⟩
  all_goals exact ⟨_, h s (.refl s), rfl, rfl, h _ same⟩

theorem exec_pad_ignores_context (s : State) (v : Vector Word 8) (cnt : DWord) (buf : List Byte) (phase : Phase) :
    ∃ t, exec .pad s = .next t ∧ t.v = s.v ∧ t.cnt = s.cnt ∧ t.buf = s.buf ∧ t.phase = s.phase ∧
      (t.err ≠ .ok → t.padnb = s.padnb ∧ t.padout = s.padout) ∧
      exec .pad { s with v := v, cnt := cnt, buf := buf, phase := phase } =
        .next { t with v := v, cnt := cnt, buf := buf, phase := phase } := by
  rcases exec_pad_effect s with h | ⟨nb, out, h⟩
  · exact ⟨_, h s rfl, rfl, rfl, rfl, rfl, fun _ => ⟨rfl, rfl⟩, h _ rfl⟩
  · exact ⟨_, h s rfl, rfl, rfl, rfl, rfl, fun hok => absurd rfl hok, h _ rfl⟩

/-- Settles O22: the effect of a hash command is the same whatever the padding outputs hold, and PAD's the same whatever
the context holds. -/
theorem paddingAndContextAreSeparate : Obligations.PaddingAndContextAreSeparate :=
  ⟨fun _ s nb out hi => exec_hash_ignores_padding hi s nb out, exec_pad_ignores_context⟩

theorem exec_ignores_err_ovr (i : Instr) (s : State) (e : ErrCode) (o : Bool) : ∃ t, exec i s = .next t ∧
    exec i { s with err := e, ovr := o } = .next { t with ovr := o } := by
  by_cases hi : i = .pad
  · subst hi
    rcases exec_pad_effect s with h | ⟨nb, out, h⟩
    all_goals exact ⟨_, h s rfl, h _ rfl⟩
  · have same : SameHashOperands s { s with err := e, ovr := o } := ⟨rfl, rfl, rfl, rfl, rfl, rfl, rfl⟩
    rcases exec_hash_effect hi s with ⟨_, h⟩ | ⟨_, _, _, _, h⟩
    all_goals exact ⟨_, h s (.refl s), h _ same⟩

/-- INIT and RESUME install a context that does not come from the one before (40_streaming.md R101, 41_resume_export.md
R130). -/
theorem exec_start_ignores_phase (i : Instr) (s : State) (p : Phase) (hi : i = .init ∨ i = .resume) :
    exec i { s with phase := p } = exec i s := by
  rcases hi with rfl | rfl
  · rfl
  · rfl

theorem exec_pad_ignores_phase (s : State) (p : Phase) : ∃ t, exec .pad s = .next t ∧
    exec .pad { s with phase := p } = .next { t with phase := p } := by
  rcases exec_pad_effect s with h | ⟨nb, out, h⟩
  all_goals exact ⟨_, h s rfl, h _ rfl⟩

/-- Settles O23: ERR and OVR are no operands of any command, PHASE none of INIT, RESUME and PAD. -/
theorem commandsIgnoreErrAndOvr : Obligations.CommandsIgnoreErrAndOvr :=
  ⟨exec_ignores_err_ovr, exec_start_ignores_phase, exec_pad_ignores_phase⟩

end Sys2Proof.Machine
end

section
/-! The invariants of the block (10_state.md R27, R29, R34): R34's own clauses as a structure, kept by every command and by
every host step; then the clauses on ERR and on the latency; then the padding outputs. -/

namespace Sys2Proof.Machine

/-! ## R34 -/

/-- The clauses (a) to (e) of R34, which speak of the context and of PADNB. -/
structure State.Bounds (s : State) : Prop where
  buf_le : s.buf.length ≤ 63
  total_le : s.totalBits ≤ 2 ^ 64 - 1
  idle_empty : s.phase = .idle → s.buf = []
  final_empty : s.phase = .final → s.buf = []
  padnb_range : s.padnb = 0 ∨ 9 ≤ s.padnb.toNat ∧ s.padnb.toNat ≤ 72

theorem State.inv_iff (s : State) :
    s.Inv ↔ s.Bounds ∧ (s.busy = true → s.err = .ok) ∧ (s.busy = false → s.latencyLeft = 0) :=
  ⟨fun ⟨ha, hb, hc, hd, he, herr, hlat⟩ => ⟨⟨ha, hb, hc, hd, he⟩, herr, hlat⟩,
    fun ⟨⟨ha, hb, hc, hd, he⟩, herr, hlat⟩ => ⟨ha, hb, hc, hd, he, herr, hlat⟩⟩

/-- Nothing is in flight after a completion, so R34 is all there is to keep. -/
theorem State.Bounds.inv_retire {s : State} (h : s.Bounds) : s.retire.Inv :=
  s.retire.inv_iff.mpr ⟨⟨h.buf_le, h.total_le, h.idle_empty, h.final_empty, h.padnb_range⟩, by simp, by simp⟩

/-- R34 speaks of CNT, BUF, PHASE and PADNB and of nothing else. -/
theorem State.Bounds.congr {s t : State} (h : s.Bounds) (hcnt : t.cnt = s.cnt) (hbuf : t.buf = s.buf)
    (hphase : t.phase = s.phase) (hnb : t.padnb = s.padnb) : t.Bounds where
  buf_le := hbuf ▸ h.buf_le
  total_le := by rw [State.totalBits, hcnt, hbuf]; exact h.total_le
  idle_empty := by rw [hphase, hbuf]; exact h.idle_empty
  final_empty := by rw [hphase, hbuf]; exact h.final_empty
  padnb_range := hnb ▸ h.padnb_range

theorem State.Bounds.setErr {s : State} (h : s.Bounds) (e : ErrCode) : (s.setErr e).Bounds := h.congr rfl rfl rfl rfl

theorem State.Bounds.setPadding {s : State} (h : s.Bounds) {nb : BitVec 7} (hnb : 9 ≤ nb.toNat ∧ nb.toNat ≤ 72)
    (out : Vector Word 18) : (s.setPadding nb out).Bounds :=
  ⟨h.buf_le, h.total_le, h.idle_empty, h.final_empty, .inr hnb⟩

/-- A context with an empty buffer is within R34, whatever its count and phase. -/
theorem State.Bounds.setContext_nil {s : State} (h : s.Bounds) (v : Vector Word 8) (cnt : DWord) (p : Phase) :
    (s.setContext v cnt [] p).Bounds where
  buf_le := Nat.zero_le _
  total_le := Nat.le_pred_of_lt cnt.isLt
  idle_empty _ := rfl
  final_empty _ := rfl
  padnb_range := h.padnb_range

/-- Absorbing at most 64 bytes within the 64-bit bound: a whole block leaves BUF and adds to CNT the very 512 bits it
took, so the total only grows by the bytes absorbed (40_streaming.md R102). -/
theorem State.Bounds.absorb {s : State} (h : s.Bounds) (hp : s.phase = .active) {b : List Byte} (hlen : b.length ≤ 127)
    (htotal : s.cnt.toNat + 8 * b.length ≤ 2 ^ 64 - 1) : (s.absorb b).Bounds := by
  rcases s.absorb_cases b with ⟨hb, e⟩ | ⟨hb, e⟩
  · rw [e]
    exact ⟨Nat.le_of_lt_succ hb, htotal, by simp [hp], by simp [hp], h.padnb_range⟩
  · have hcnt : (s.cnt + 512).toNat = s.cnt.toNat + 512 := by bv_omega
    rw [e]
    refine ⟨?_, ?_, by simp [hp], by simp [hp], h.padnb_range⟩
    · simp only [State.setContext_buf, List.length_drop]
      omega
    · simp only [State.totalBits, State.setContext_cnt, State.setContext_buf, List.length_drop, hcnt]
      omega

theorem State.Bounds.after_execUpdate {s t : State} {n : BitVec 7} (h : s.Bounds) (he : execUpdate n s = .next t) :
    t.Bounds := by
  rcases execUpdate_cases n s with ⟨-, e⟩ | ⟨-, e⟩ | ⟨-, -, e⟩ | ⟨hp, hfits, e⟩ <;> rw [e] at he <;> cases he
  · exact h.setErr _
  · exact h.setErr _
  · exact h.setErr _
  · have hbuf := h.buf_le
    have hlen : (s.buf ++ s.chunk n.toNat).length = s.buf.length + min n.toNat 64 := by
      rw [List.length_append, length_chunk]
    exact (h.absorb hp (by omega) (by omega)).setErr _

theorem State.Bounds.after_execFinalize {s t : State} (h : s.Bounds) (he : execFinalize s = .next t) : t.Bounds := by
  rcases execFinalize_cases s with ⟨-, e⟩ | ⟨-, e⟩ | ⟨-, e⟩ <;> rw [e] at he <;> cases he
  · exact h.setErr _
  · exact h.setErr _
  · exact (h.setContext_nil _ _ _).setErr _

/-- A padding is 9 to 72 bytes long, and its length fits the 7 bits of PADNB (43_padding.md R182). -/
theorem toNat_length_paddingFor (l : Nat) : (BitVec.ofNat 7 (paddingFor l).length).toNat = (paddingFor l).length := by
  have := padZeros_le l
  rw [length_paddingFor, BitVec.toNat_ofNat]
  omega

theorem State.Bounds.after_execPad {s t : State} (h : s.Bounds) (he : execPad s = .next t) : t.Bounds := by
  rcases execPad_cases s with ⟨-, e⟩ | ⟨-, e⟩ <;> rw [e] at he <;> cases he
  · exact h.setErr _
  · refine (h.setPadding ?_ _).setErr _
    have := padZeros_le s.padlen.toNat
    rw [toNat_length_paddingFor, length_paddingFor]
    omega

/-- Every command keeps R34, the ill-formed UPDATE of log entry 10 too. -/
theorem State.Bounds.after_exec {s t : State} {i : Instr} (h : s.Bounds) (he : exec i s = .next t) : t.Bounds := by
  cases i with
  | init => cases he; exact (h.setContext_nil _ _ _).setErr _
  | update n => exact h.after_execUpdate he
  | finalize => exact h.after_execFinalize he
  | resume => cases he; exact (h.setContext_nil _ _ _).setErr _
  | pad => exact h.after_execPad he

/-! ## Host steps -/

/-- The host's step other than a reset: it takes a command, which clears ERR, or leaves BUSY, ERR and the latency. -/
theorem hostStep_accepts_or_keeps {s t : State} (h : hostStep s = .next t) (hr : ¬ s.resetNext) :
    (t.busy = true ∧ t.err = .ok) ∨ (t.busy = s.busy ∧ t.err = s.err ∧ t.latencyLeft = s.latencyLeft) := by
  rcases hostStep_cases s with ⟨-, e⟩ | ⟨rest, hx, e⟩ | ⟨rest, off, -, e⟩ | ⟨ins, off, w, -, e⟩ |
    ⟨rest, width, off, w, -, -, e⟩ <;> rw [e] at h <;> cases h
  · exact .inr ⟨rfl, rfl, rfl⟩
  · exact absurd (by rw [State.resetNext, hx]; rfl) hr
  · exact .inr ⟨rfl, rfl, rfl⟩
  · right
    rcases (s.setInputs ins).afterRead_cases off with e | e <;> rw [e] <;> exact ⟨rfl, rfl, rfl⟩
  · rcases (s.setInputs rest).regWrite_cases off w with ⟨-, e | e⟩ | ⟨-, e⟩ | ⟨-, e⟩ <;> rw [e]
    · exact .inr ⟨rfl, rfl, rfl⟩
    · exact .inr ⟨rfl, rfl, rfl⟩
    · exact .inl ⟨rfl, rfl⟩
    · right
      rcases (s.setInputs rest).writeInput_cases w (regAt off) with e | ⟨_, e⟩ | ⟨_, e⟩ | ⟨_, e⟩ | ⟨_, e⟩ <;>
        rw [e] <;> exact ⟨rfl, rfl, rfl⟩

/-- A host step with the reset input next is the reset (70_reset_and_hazards.md R230). -/
theorem hostStep_of_resetNext {s t : State} (h : hostStep s = .next t) (hr : s.resetNext) :
    ∃ rest, t = (s.setInputs rest).resetBlock := by
  obtain ⟨rest, hi⟩ := List.head?_eq_some_iff.mp hr
  unfold hostStep at h
  rw [hi] at h
  cases h
  exact ⟨rest, rfl⟩

theorem State.inv_resetBlock (s : State) : s.resetBlock.Inv :=
  ⟨by simp, by simp, fun _ => rfl, fun _ => rfl, .inl rfl, fun _ => rfl, fun _ => rfl⟩

/-- Settles O13: at reset the buffer is empty, nothing is in flight, and the padding outputs are zero. -/
theorem resetStateMeetsTheInvariants : Obligations.ResetStateMeetsTheInvariants :=
  ⟨State.reset.inv_resetBlock, .inl ⟨rfl, rfl⟩⟩

theorem State.Inv.after_hostStep {s t : State} (h : s.Inv) (hs : hostStep s.tick = .next t) : t.Inv := by
  obtain ⟨hbounds, herr, hlat⟩ := s.inv_iff.mp h
  by_cases hr : s.resetNext
  · obtain ⟨rest, rfl⟩ := hostStep_of_resetNext hs hr
    exact State.inv_resetBlock _
  · obtain ⟨-, hcnt, hbuf, hphase, hnb, -, -⟩ := hostStep_frame hs hr
    refine t.inv_iff.mpr ⟨hbounds.congr hcnt hbuf hphase hnb, ?_⟩
    rcases hostStep_accepts_or_keeps hs hr with ⟨hb, he⟩ | ⟨hb, he, hl⟩
    · exact ⟨fun _ => he, fun hf => by rw [hb] at hf; cases hf⟩
    · rw [hb, he, hl]
      exact ⟨herr, fun hf => by rw [State.tick_latencyLeft, hlat hf]⟩

/-- Settles O14: a host step keeps R34 by its frame and the clauses on ERR and the latency by taking a command or leaving
them; a completion leaves nothing in flight, and its command keeps R34. -/
theorem everyStepKeepsTheInvariant : Obligations.EveryStepKeepsTheInvariant := by
  intro s t h hs
  obtain ⟨hbounds, -⟩ := s.inv_iff.mp h
  rcases step_cases hs with ⟨-, hhost⟩ | ⟨-, c, -, -, ⟨-, rfl⟩ | ⟨i, u, -, hu, rfl⟩⟩
  · exact State.Inv.after_hostStep h hhost
  · exact (hbounds.setErr _).inv_retire
  · exact (hbounds.after_exec hu).inv_retire

/-! ## The padding outputs -/

theorem State.PadInv.congr {s t : State} (h : s.PadInv) (hnb : t.padnb = s.padnb) (hout : t.padout = s.padout) :
    t.PadInv := by
  unfold State.PadInv
  rw [hnb, hout]
  exact h

theorem State.PadInv.after_execPad {s t : State} (h : s.PadInv) (he : execPad s = .next t) : t.PadInv := by
  rcases execPad_cases s with ⟨-, e⟩ | ⟨hl, e⟩ <;> rw [e] at he <;> cases he
  · exact h.congr rfl rfl
  · exact .inr ⟨s.padlen.toNat, hl, toNat_length_paddingFor _, rfl⟩

theorem State.PadInv.after_exec {s t : State} {i : Instr} (h : s.PadInv) (he : exec i s = .next t) : t.PadInv := by
  by_cases hi : i = .pad
  · subst hi
    exact h.after_execPad he
  · obtain ⟨hnb, hout⟩ := exec_hash_keeps_padding hi he
    exact h.congr hnb hout

/-- Settles O15: a reset zeroes the padding outputs, PAD alone writes them, and it writes the padding of PADLEN. -/
theorem everyStepKeepsPaddingOutputsExact : Obligations.EveryStepKeepsPaddingOutputsExact := by
  intro s t h hs
  rcases step_cases hs with ⟨-, hhost⟩ | ⟨-, c, -, -, ⟨-, rfl⟩ | ⟨i, u, -, hu, rfl⟩⟩
  · by_cases hr : s.resetNext
    · obtain ⟨rest, rfl⟩ := hostStep_of_resetNext hhost hr
      exact .inl ⟨rfl, rfl⟩
    · obtain ⟨-, -, -, -, hnb, hout, -⟩ := hostStep_frame hhost hr
      exact h.congr hnb hout
  · exact h.congr rfl rfl
  · exact (h.after_exec hu).congr rfl rfl

end Sys2Proof.Machine
end

section
/-! A command word is determined by the command it decodes to (30_encoding.md R83, R85). -/

namespace Sys2Proof

/-- A command word is its four fields side by side (30_encoding.md R80). -/
theorem append_commandFields (c : Word) :
    (res1Field c ++ nbytesField c ++ res0Field c ++ opField c : BitVec 32) = c := by
  simp only [res1Field, nbytesField, res0Field, opField]
  rw [BitVec.extractLsb'_append_extractLsb'_eq_extractLsb' (by rfl),
    BitVec.extractLsb'_append_extractLsb'_eq_extractLsb' (by rfl),
    BitVec.extractLsb'_append_extractLsb'_eq_extractLsb' (by rfl)]
  exact BitVec.extractLsb'_eq_self

/-- The field NBYTES of each command's word (30_encoding.md R80, R82). -/
def nbytesOf : Instr → BitVec 7
  | .update n => n
  | .init | .finalize | .resume | .pad => 0

theorem encode_eq_append (i : Instr) :
    encode i = (0 : BitVec 17) ++ nbytesOf i ++ (0 : BitVec 4) ++ opcodeOf i := by
  cases i with
  | update n => revert n; decide
  | init | finalize | resume | pad => rfl

theorem plainCommand_eq_ok_iff {i j : Instr} {n : BitVec 7} : plainCommand i n = .ok j ↔ n = 0 ∧ i = j := by
  by_cases hn : n = 0
  · simp [plainCommand, hn]
  · rw [plainCommand, if_neg hn]
    simp only [reduceCtorEq, hn, false_and]

/-- What the fields of a word that decodes are (30_encoding.md R80, R81). -/
theorem commandFields_of_decode {c : Word} {i : Instr} (h : decode c = .ok i) :
    res1Field c = 0 ∧ res0Field c = 0 ∧ opField c = opcodeOf i ∧ nbytesField c = nbytesOf i := by
  unfold decode at h
  split at h
  · cases h
  rename_i h1
  split at h
  · cases h
  rename_i h0
  refine ⟨not_not.mp h1, not_not.mp h0, ?_⟩
  split at h
  case h_2 hop =>
    split at h
    · cases h
      exact ⟨BitVec.eq_of_toNat_eq hop, rfl⟩
    · cases h
  case h_6 => cases h
  all_goals
    rename_i hop
    obtain ⟨hn, rfl⟩ := plainCommand_eq_ok_iff.mp h
    exact ⟨BitVec.eq_of_toNat_eq hop, hn⟩

theorem encode_of_decode {c : Word} {i : Instr} (h : decode c = .ok i) : encode i = c := by
  obtain ⟨h1, h0, hop, hn⟩ := commandFields_of_decode h
  rw [encode_eq_append, ← h1, ← h0, ← hop, ← hn]
  exact append_commandFields c

end Sys2Proof
end

section
/-! Which steps change V and the padding outputs (10_state.md R22, R29). -/

namespace Sys2Proof.Machine

/-- An UPDATE that leaves the buffer short of a block keeps V (40_streaming.md R102). -/
theorem execUpdate_v_of_lt {s t : State} {n : BitVec 7} (h : execUpdate n s = .next t)
    (hn : s.buf.length + n.toNat < 64) : t.v = s.v := by
  rcases execUpdate_cases n s with ⟨-, e⟩ | ⟨-, e⟩ | ⟨-, -, e⟩ | ⟨-, -, e⟩ <;> rw [e] at h <;> cases h
  · rfl
  · rfl
  · rfl
  · have hlen : (s.buf ++ s.chunk n.toNat).length < 64 := by
      rw [List.length_append, length_chunk]; omega
    rw [State.absorb_of_lt hlen]
    rfl

/-- The commands that can change V (10_state.md R22). -/
theorem exec_v_changed {i : Instr} {s t : State} (h : exec i s = .next t) (hv : t.v ≠ s.v) :
    i = .init ∨ i = .resume ∨ i = .finalize ∨ ∃ n, i = .update n ∧ 64 ≤ s.buf.length + n.toNat := by
  cases i with
  | init => exact .inl rfl
  | resume => exact .inr (.inl rfl)
  | finalize => exact .inr (.inr (.inl rfl))
  | update n => exact .inr (.inr (.inr ⟨n, rfl, Nat.not_lt.mp fun hn => hv (execUpdate_v_of_lt h hn)⟩))
  | pad =>
    rcases execPad_cases s with ⟨-, e⟩ | ⟨-, e⟩
    all_goals
      cases e.symm.trans h
      exact absurd rfl hv

/-- Settles O25: a host step other than a reset keeps V, and so does the completion of any word but those of R22. -/
theorem onlyContextCommandsChangeTheChainingState : Obligations.OnlyContextCommandsChangeTheChainingState := by
  intro s t hs hv
  rcases step_cases hs with ⟨hc, hhost⟩ | ⟨hc, c, hp, -, ⟨-, rfl⟩ | ⟨i, u, hd, hu, rfl⟩⟩
  · exact .inl ⟨hc, by_contra fun hr => hv (hostStep_frame hhost hr).1⟩
  · exact absurd rfl hv
  · exact .inr ⟨c, i, hc, hp, hd, exec_v_changed hu hv⟩

/-- The one command that can change the padding outputs, and with which code (10_state.md R29). -/
theorem exec_padding_changed {i : Instr} {s t : State} (h : exec i s = .next t)
    (hpad : t.padnb ≠ s.padnb ∨ t.padout ≠ s.padout) : i = .pad ∧ t.err = .ok := by
  rcases exec_effect i s with ⟨e, he⟩ | ⟨-, v, cnt, buf, p, he⟩ | ⟨hi, nb, out, he⟩ <;> rw [he] at h <;> cases h
  · simp at hpad
  · simp at hpad
  · exact ⟨hi, rfl⟩

/-- Settles O26: a host step other than a reset keeps the padding outputs, and the completion of any word but PAD's too. -/
theorem onlyPadChangesThePaddingOutputs : Obligations.OnlyPadChangesThePaddingOutputs := by
  intro s t hs hpad
  rcases step_cases hs with ⟨hc, hhost⟩ | ⟨hc, c, hp, -, ⟨-, rfl⟩ | ⟨i, u, hd, hu, rfl⟩⟩
  · refine .inl ⟨hc, by_contra fun hr => ?_⟩
    obtain ⟨-, -, -, -, hnb, hout, -⟩ := hostStep_frame hhost hr
    exact hpad.elim (· hnb) (· hout)
  · simp at hpad
  · obtain ⟨rfl, herr⟩ := exec_padding_changed hu hpad
    exact .inr ⟨hc, by rw [hp, ← encode_of_decode hd]; rfl, herr⟩

end Sys2Proof.Machine
end

section
/-! The reset state as the host reads it, and the acceptance of a command (20_memory.md R68, 70_reset_and_hazards.md
R230). -/

namespace Sys2Proof.Machine

/-- A write to CMD while BUSY = 0 leaves the accepted command and the inputs still to come (20_memory.md R68). -/
theorem step_of_cmdWrite {s : State} {c : Word} {rest : List Input} (hi : s.inputs = wr .cmd c :: rest)
    (hb : s.busy = false) : step s = .next ((s.tick.setInputs rest).accept c) := by
  rw [step_of_write hi hb, State.regWrite_cmd c (s := s.tick.setInputs rest) hb]

/-- Settles O32: the accepted command takes the head of the platform's latencies where there is one. -/
theorem commandWriteIsAcceptedWhenIdle : Obligations.CommandWriteIsAcceptedWhenIdle := by
  intro s c rest hi hb
  refine ⟨_, _, _, step_of_cmdWrite hi hb, fun k l hkl => ?_⟩
  simp [hkl]

/-- ID is the word at offset 0, and no other of the window's 256 offsets (20_memory.md R52). -/
theorem regAt_eq_id_iff (off : Offset) : regAt off = .id ↔ off.toNat / 4 = 0 := by
  revert off
  decide

/-- After reset every register but ID holds 0 (70_reset_and_hazards.md R230, 20_memory.md R53). -/
theorem State.reset_regValue (r : Reg) : State.reset.regValue r = if r = .id then identity else 0 := by
  cases r with
  | state i | din i | msg i | padout i => revert i; decide
  | reserved i => rfl
  | _ => rfl

theorem State.reset_regRead (off : Offset) :
    State.reset.regRead off = if off.toNat / 4 = 0 then 0x534D3301 else 0 := by
  rw [State.regRead, State.drawsOn_idle _ rfl, State.reset_regValue]
  simp only [regAt_eq_id_iff]
  rfl

/-- Settles O11: each word file is a row of zeros, and the window shows ID's constant and zeros. -/
theorem resetStateIsAsSpecified : Obligations.ResetStateIsAsSpecified :=
  ⟨by decide, by decide, by decide, rfl, rfl, rfl, rfl, rfl, rfl, rfl, rfl, rfl, rfl, State.reset_regRead⟩

end Sys2Proof.Machine
end

section
/-! The halves of the 64-bit registers (20_memory.md R57, R58, R62). -/

namespace Sys2Proof.Machine

@[simp] theorem toNat_loHalf (v : DWord) : (loHalf v).toNat = v.toNat % 2 ^ 32 := by
  simp [loHalf]

@[simp] theorem toNat_hiHalf (v : DWord) : (hiHalf v).toNat = v.toNat / 2 ^ 32 := by
  have := v.isLt
  rw [hiHalf, BitVec.extractLsb'_toNat, Nat.shiftRight_eq_div_pow]
  omega

/-- A word and the other half, side by side, as a number. -/
theorem toNat_append_word (a b : Word) : (a ++ b : DWord).toNat = a.toNat * 2 ^ 32 + b.toNat := by
  rw [BitVec.toNat_append, ← Nat.shiftLeft_add_eq_or_of_lt b.isLt, Nat.shiftLeft_eq]

theorem toNat_setLoHalf (v : DWord) (w : Word) :
    (setLoHalf v w).toNat = v.toNat / 2 ^ 32 * 2 ^ 32 + w.toNat := by
  rw [setLoHalf, toNat_append_word, toNat_hiHalf]

theorem toNat_setHiHalf (v : DWord) (w : Word) :
    (setHiHalf v w).toNat = w.toNat * 2 ^ 32 + v.toNat % 2 ^ 32 := by
  rw [setHiHalf, toNat_append_word, toNat_loHalf]

end Sys2Proof.Machine
end

section
/-! The fields of STATUS (20_memory.md R55): each of its four parts fills one field and leaves the other fields 0. -/

namespace Sys2Proof.Machine

/-- Bits [0], [2:1], [3], [7:4] and [31:8] of a word (20_memory.md R55). -/
def statusFields (w : Word) : BitVec 1 × BitVec 2 × BitVec 1 × BitVec 4 × BitVec 24 :=
  (w.extractLsb' 0 1, w.extractLsb' 1 2, w.extractLsb' 3 1, w.extractLsb' 4 4, w.extractLsb' 8 24)

theorem statusFields_flagBit (b : Bool) : statusFields (flagBit b) = (if b then 1 else 0, 0, 0, 0, 0) := by
  cases b <;> rfl

theorem statusFields_phase (p : Phase) : statusFields (p.code <<< 1) = (0, p.code.setWidth 2, 0, 0, 0) := by
  cases p <;> rfl

theorem statusFields_ovr (b : Bool) : statusFields (flagBit b <<< 3) = (0, 0, if b then 1 else 0, 0, 0) := by
  cases b <;> rfl

theorem statusFields_err (e : ErrCode) : statusFields (e.code <<< 4) = (0, 0, 0, e.code.setWidth 4, 0) := by
  cases e <;> rfl

/-- The fields of a word made by OR are the ORs of the fields. -/
theorem statusFields_or (x y : Word) : statusFields (x ||| y) =
    ((statusFields x).1 ||| (statusFields y).1, (statusFields x).2.1 ||| (statusFields y).2.1,
      (statusFields x).2.2.1 ||| (statusFields y).2.2.1, (statusFields x).2.2.2.1 ||| (statusFields y).2.2.2.1,
      (statusFields x).2.2.2.2 ||| (statusFields y).2.2.2.2) := by
  simp only [statusFields, BitVec.extractLsb'_or]

theorem State.statusFields_status (s : State) : statusFields s.status =
    (if s.busy then 1 else 0, s.phase.code.setWidth 2, if s.ovr then 1 else 0, s.err.code.setWidth 4, 0) := by
  simp only [State.status, statusFields_or, statusFields_flagBit, statusFields_phase, statusFields_ovr,
    statusFields_err, BitVec.or_zero, BitVec.zero_or, BitVec.ofNat_eq_ofNat]

theorem State.status_bit0 (s : State) : s.status.extractLsb' 0 1 = if s.busy then 1 else 0 :=
  congrArg Prod.fst s.statusFields_status

/-- Settles O28: the parts of STATUS lie in disjoint fields, so each field reads its own part. -/
theorem statusWordHasItsFields : Obligations.StatusWordHasItsFields := by
  intro s
  have h := s.statusFields_status
  simp only [statusFields, Prod.mk.injEq] at h
  obtain ⟨hbusy, hphase, hovr, herr, hres⟩ := h
  refine ⟨hbusy, ?_, hovr, ?_, hres⟩
  · rw [hphase]
    cases s.phase <;> rfl
  · rw [herr]
    cases s.err <;> rfl

end Sys2Proof.Machine
end

section
/-! RegRead and RegWrite, register by register (20_memory.md R52 to R68). -/

namespace Sys2Proof.Machine

/-! ## Reads -/

/-- A register whose reads are valid while BUSY = 1 is no free draw in any state (20_memory.md R67). -/
theorem State.drawsOn_valid (s : State) {r : Reg} (hr : r.anyWhileBusy = false) : s.drawsOn r = false := by
  rw [State.drawsOn, hr, Bool.and_false]

theorem State.regRead_valid (s : State) {r : Reg} (hr : r.anyWhileBusy = false) :
    s.regRead r.offset = s.regValue r :=
  State.regRead_offset (s.drawsOn_valid hr)

theorem State.regRead_idle {s : State} (hb : s.busy = false) (r : Reg) : s.regRead r.offset = s.regValue r :=
  State.regRead_offset (State.drawsOn_idle r hb)

theorem State.regRead_free {s : State} {r : Reg} (hb : s.busy = true) (hr : r.anyWhileBusy = true) :
    s.regRead r.offset = Config.busyRead s.draws ∧ s.afterRead r.offset = s.drawn := by
  simp [State.regRead, State.afterRead, State.drawsOn, hb, hr]

/-- Settles O29: with BUSY = 0 every offset reads what its register holds, and each half is a quotient or a remainder. -/
theorem registerMapReadsEachRegister : Obligations.RegisterMapReadsEachRegister := by
  intro s hb
  have read : ∀ r : Reg, s.regRead r.offset = s.regValue r := State.regRead_idle hb
  have num (r : Reg) : (s.regRead r.offset).toNat = (s.regValue r).toNat := congrArg BitVec.toNat (read r)
  exact ⟨read .id, read .cmd, read .status,
    fun hlen => (num .buflen).trans (Nat.mod_eq_of_lt (by omega)),
    (num .cntLo).trans (toNat_loHalf _), (num .cntHi).trans (toNat_hiHalf _),
    (num .cntinLo).trans (toNat_loHalf _), (num .cntinHi).trans (toNat_hiHalf _),
    fun i => read (.state i), fun i => read (.din i), fun i => read (.msg i),
    (num .padlenLo).trans (toNat_loHalf _), (num .padlenHi).trans (toNat_hiHalf _),
    (num .padnb).trans (BitVec.toNat_setWidth_of_le (by decide)),
    fun i => read (.padout i), read (.reserved 0), read (.reserved 1), read (.reserved 2)⟩

/-- The offsets of the registers that read any value while BUSY = 1 (20_memory.md R67). -/
theorem exists_free_reg_of_offset {off : Offset}
    (h : off ∈ [0x0C, 0x10, 0x14, 0xA8] ∨ (∃ i : Fin 8, off = 0x20 + 4 * BitVec.ofNat 8 i) ∨
      ∃ i : Fin 18, off = 0xB0 + 4 * BitVec.ofNat 8 i) :
    ∃ r : Reg, off = r.offset ∧ r.anyWhileBusy = true := by
  rcases h with h | ⟨i, rfl⟩ | ⟨i, rfl⟩
  · simp only [List.mem_cons, List.not_mem_nil, or_false] at h
    rcases h with rfl | rfl | rfl | rfl
    · exact ⟨.buflen, rfl, rfl⟩
    · exact ⟨.cntLo, rfl, rfl⟩
    · exact ⟨.cntHi, rfl, rfl⟩
    · exact ⟨.padnb, rfl, rfl⟩
  · exact ⟨.state i, rfl, rfl⟩
  · exact ⟨.padout i, rfl, rfl⟩

/-- Settles O30: the valid registers read as in every state, and each other register takes the current draw. -/
theorem readsWhileBusyAreValidOrFree : Obligations.ReadsWhileBusyAreValidOrFree := by
  intro s hb
  have read {r : Reg} : r.anyWhileBusy = false → s.regRead r.offset = s.regValue r := s.regRead_valid
  have num {r : Reg} (hr : r.anyWhileBusy = false) : (s.regRead r.offset).toNat = (s.regValue r).toNat :=
    congrArg BitVec.toNat (read hr)
  refine ⟨read (r := .id) rfl, read (r := .cmd) rfl, read (r := .status) rfl,
    (num (r := .cntinLo) rfl).trans (toNat_loHalf _), (num (r := .cntinHi) rfl).trans (toNat_hiHalf _),
    fun i => read (r := .din i) rfl, fun i => read (r := .msg i) rfl,
    (num (r := .padlenLo) rfl).trans (toNat_loHalf _), (num (r := .padlenHi) rfl).trans (toNat_hiHalf _),
    read (r := .reserved 0) rfl, read (r := .reserved 1) rfl, read (r := .reserved 2) rfl, fun off hoff => ?_⟩
  obtain ⟨r, rfl, hr⟩ := exists_free_reg_of_offset hoff
  exact State.regRead_free hb hr

/-! ## Writes -/

theorem State.writeInput_of_readOnly (s : State) (w : Word) {r : Reg} (hr : r.droppedWhileBusy = false) :
    s.writeInput w r = s := by
  cases r with
  | cmd | cntinLo | cntinHi | din i | msg i | padlenLo | padlenHi => cases hr
  | _ => rfl

/-- A write to a register that is neither CMD nor an input register is ignored, busy or not (20_memory.md R65). -/
theorem State.regWrite_readOnly (s : State) (w : Word) {r : Reg} (hr : r.droppedWhileBusy = false) :
    s.regWrite r.offset w = s := by
  cases hb : s.busy with
  | true => simp [State.regWrite, hb, hr]
  | false =>
    have hcmd : r ≠ .cmd := by rintro rfl; cases hr
    rw [State.regWrite_offset w hb hcmd, State.writeInput_of_readOnly s w hr]

/-- What reads any value while BUSY = 1 is no register the host writes (20_memory.md R65, R67). -/
theorem Reg.not_dropped_of_free {r : Reg} (hr : r.anyWhileBusy = true) : r.droppedWhileBusy = false := by
  cases r with
  | buflen | cntLo | cntHi | state i | padnb | padout i => rfl
  | _ => cases hr

/-- Settles O36: none of the listed offsets is that of CMD or of an input register. -/
theorem readOnlyAndReservedWritesAreIgnored : Obligations.ReadOnlyAndReservedWritesAreIgnored := by
  intro s off w
  have reserved (i : Fin 3) : s.regRead (Reg.reserved i).offset = 0 ∧ s.regWrite (Reg.reserved i).offset w = s :=
    ⟨s.regRead_valid rfl, s.regWrite_readOnly w rfl⟩
  constructor
  · intro h
    simp only [List.mem_cons, List.not_mem_nil, or_false] at h
    rcases h with rfl | rfl | rfl
    · exact reserved 0
    · exact reserved 1
    · exact reserved 2
  · intro h
    rw [List.mem_cons, List.mem_cons, or_assoc, or_assoc] at h
    rcases h with rfl | rfl | hfree
    · exact s.regWrite_readOnly w (r := .id) rfl
    · exact s.regWrite_readOnly w (r := .status) rfl
    · obtain ⟨r, rfl, hr⟩ := exists_free_reg_of_offset hfree
      exact s.regWrite_readOnly w (Reg.not_dropped_of_free hr)

/-- Word j of a register file after a write of word i (20_memory.md R60, R61). -/
theorem get_set_word {n : Nat} (ws : Vector Word n) (i j : Fin n) (w : Word) :
    (ws.set i w).get j = if j = i then w else ws.get j := by
  simp only [Vector.get_eq_getElem, Vector.getElem_set, Fin.ext_iff, eq_comm]

/-- Settles O34: each input register is its own field or its own word or half of one. -/
theorem inputRegisterWritesStoreTheirWord : Obligations.InputRegisterWritesStoreTheirWord := by
  intro s w hb
  have write {r : Reg} : r ≠ .cmd → s.regWrite r.offset w = s.writeInput w r := State.regWrite_offset w hb
  exact ⟨⟨_, write (r := .cntinLo) (by simp), toNat_setLoHalf _ _⟩,
    ⟨_, write (r := .cntinHi) (by simp), toNat_setHiHalf _ _⟩,
    fun i => ⟨_, write (r := .din i) (by simp), fun j => get_set_word s.din i j w⟩,
    fun i => ⟨_, write (r := .msg i) (by simp), fun j => get_set_word s.msg i j w⟩,
    ⟨_, write (r := .padlenLo) (by simp), toNat_setLoHalf _ _⟩,
    ⟨_, write (r := .padlenHi) (by simp), toNat_setHiHalf _ _⟩⟩

end Sys2Proof.Machine
end

section
/-! The host's accesses: which the block refuses, what the others do, and the window they go through (20_memory.md R50,
R51, R67, R68, 60_exceptions.md R204). -/

namespace Sys2Proof.Machine

/-- The refused accesses, by width and alignment (20_memory.md R51). -/
theorem refusedAccess_iff (width : Nat) (off : Offset) :
    refusedAccess width off = true ↔ width ≠ 32 ∨ off.toNat % 4 ≠ 0 := by
  have hlow : off.extractLsb' 0 2 = 0 ↔ off.toNat % 4 = 0 := by
    rw [← BitVec.toNat_inj, BitVec.extractLsb'_toNat]
    rfl
  rw [refusedAccess, Bool.or_eq_true, decide_eq_true_iff, decide_eq_true_iff, ne_eq, ne_eq, hlow]

theorem not_refusedAccess {off : Offset} (h : off.toNat % 4 = 0) : refusedAccess 32 off = false := by
  rw [← Bool.not_eq_true, refusedAccess_iff]
  omega

/-- A host step that reads, on the host's turn, whatever the width and the offset. -/
theorem step_of_readInput {s : State} {width : Nat} {off : Offset} {rest : List Input}
    (hi : s.inputs = .read width off :: rest) (ht : s.coreTurn = false) :
    step s = finishAccess (s.tick.setInputs rest) (busRead width off (s.tick.setInputs rest)) := by
  rw [step_of_hostTurn ht]
  simp [hostStep, hi]

/-- A host step that writes, on the host's turn, whatever the width and the offset. -/
theorem step_of_writeInput {s : State} {width : Nat} {off : Offset} {w : Word} {rest : List Input}
    (hi : s.inputs = .write width off w :: rest) (ht : s.coreTurn = false) :
    step s = finishAccess (s.tick.setInputs rest) (busWrite width off w (s.tick.setInputs rest)) := by
  rw [step_of_hostTurn ht]
  simp [hostStep, hi]

theorem busRead_refused {width : Nat} {off : Offset} (h : refusedAccess width off = true) (s : State) :
    busRead width off s = .fault (.busError off) := if_pos h

theorem busWrite_refused {width : Nat} {off : Offset} (h : refusedAccess width off = true) (w : Word) (s : State) :
    busWrite width off w s = .fault (.busError off) := if_pos h

theorem busRead_accepted {off : Offset} (h : off.toNat % 4 = 0) (s : State) :
    busRead 32 off s = .next ((s.afterRead off).respond (.value off (s.regRead off))) :=
  if_neg (Bool.not_eq_true _ ▸ not_refusedAccess h)

theorem busWrite_accepted {off : Offset} (h : off.toNat % 4 = 0) (w : Word) (s : State) :
    busWrite 32 off w s = .next (s.regWrite off w) :=
  if_neg (Bool.not_eq_true _ ▸ not_refusedAccess h)

/-- Settles O37: the access ends in the fault before RegRead or RegWrite, and the host's step answers it. -/
theorem refusedAccessChangesNothing : Obligations.RefusedAccessChangesNothing := by
  intro s width off w rest haccess
  have hrefused := (refusedAccess_iff width off).mpr haccess
  refine ⟨busRead_refused hrefused s, busWrite_refused hrefused w s, fun hi hturn => ?_⟩
  rcases hi with hi | hi
  · rw [step_of_readInput hi (hostTurn_of hturn), busRead_refused hrefused]
    rfl
  · rw [step_of_writeInput hi (hostTurn_of hturn), busWrite_refused hrefused]
    rfl

/-- What a register holds does not depend on the latency or on the inputs still to come. -/
theorem State.regValue_tick_setInputs (s : State) (rest : List Input) (r : Reg) :
    (s.tick.setInputs rest).regValue r = s.regValue r := by
  cases r <;> rfl

theorem State.regRead_tick_setInputs (s : State) (rest : List Input) (off : Offset) :
    (s.tick.setInputs rest).regRead off = s.regRead off := by
  rw [State.regRead, State.regValue_tick_setInputs]
  rfl

/-- Settles O31: the read's answer comes from registers the access leaves alone; WAIT goes on while STATUS shows BUSY. -/
theorem hostReadAnswersAndChangesNothing : Obligations.HostReadAnswersAndChangesNothing := by
  constructor
  · intro s off rest hi halign hturn
    rw [step_of_readInput hi (hostTurn_of hturn), busRead_accepted halign, State.regRead_tick_setInputs]
    rcases (s.tick.setInputs rest).afterRead_cases off with e | e
    all_goals
      rw [e]
      exact ⟨_, rfl⟩
  · intro s rest hi hturn
    rw [step_of_poll hi (hostTurn_of hturn), s.status_bit0, hi]
    cases s.busy <;> rfl

/-- Settles O35: an aligned 32-bit write is not refused. -/
theorem hostWritePerformsRegWrite : Obligations.HostWritePerformsRegWrite := by
  intro s off w rest hi halign hturn
  rw [step_of_writeInput hi (hostTurn_of hturn), busWrite_accepted halign]
  rfl

/-- Settles O38: the window's addresses are those at a distance below 256 from SM3_BASE, and the distance is the offset. -/
theorem windowIsTheTwoHundredFiftySixBytesFromBase : Obligations.WindowIsTheTwoHundredFiftySixBytesFromBase := by
  constructor
  · intro off
    have hin : Config.sm3Base ≤ Config.sm3Base + off.toNat ∧ Config.sm3Base + off.toNat - Config.sm3Base < 256 := by
      have := off.isLt
      omega
    rw [windowOffset, if_pos hin, Nat.add_sub_cancel_left, BitVec.ofNat_toNat, BitVec.setWidth_eq]
  · intro addr
    rw [windowOffset, ite_eq_right_iff]
    simp only [reduceCtorEq, imp_false]
    omega

end Sys2Proof.Machine
end

section
/-! A command in flight keeps its operands (20_memory.md R73). -/

namespace Sys2Proof.Machine

/-- Settles O27: a host access while BUSY = 1 writes no input register and not PENDING, and a command writes none
either; its completion empties PENDING. -/
theorem inputsAreFixedWhileBusy : Obligations.InputsAreFixedWhileBusy := by
  intro s t hb hs hreset
  rcases step_cases hs with ⟨hc, hhost⟩ | ⟨hc, c, -, -, ⟨-, rfl⟩ | ⟨i, u, -, hu, rfl⟩⟩
  · obtain ⟨-, -, -, -, -, -, hkeeps⟩ := hostStep_frame hhost fun hr => hreset ⟨hc, hr⟩
    obtain ⟨hcntin, hdin, hmsg, hpadlen, hpending⟩ := hkeeps hb
    exact ⟨hcntin, hdin, hmsg, hpadlen, .inl hpending⟩
  · exact ⟨rfl, rfl, rfl, rfl, .inr ⟨hc, rfl⟩⟩
  · obtain ⟨_, he, hcntin, hdin, hmsg, hpadlen, -⟩ := commandsKeepInputRegisters i s
    cases he.symm.trans hu
    exact ⟨hcntin, hdin, hmsg, hpadlen, .inr ⟨hc, rfl⟩⟩

end Sys2Proof.Machine
end

section
/-! The decoder and the encoder are inverse to each other, and R84's test picks out their range (30_encoding.md R80 to
R85, 60_exceptions.md R202). -/

namespace Sys2Proof

theorem nbytesField_encode (i : Instr) : nbytesField (encode i) = nbytesOf i := by
  cases i with
  | update n => revert n; decide
  | init | finalize | resume | pad => rfl

theorem encodingLegal (i : Instr) : Laws.EncodingLegal.Statement i := by
  cases i with
  | init => exact Laws.EncodingLegal.init
  | update n => exact Laws.EncodingLegal.update n
  | finalize => exact Laws.EncodingLegal.finalize
  | resume => exact Laws.EncodingLegal.resume
  | pad => exact Laws.EncodingLegal.pad

/-- A word with the fields of command i decodes to i, or is rejected for UPDATE's range (30_encoding.md R81, R84). -/
theorem decode_of_commandFields {c : Word} {i : Instr} (h1 : res1Field c = 0) (h0 : res0Field c = 0)
    (hop : opField c = opcodeOf i) (hn : nbytesField c = nbytesOf i) :
    decode c = if i.wellFormed then .ok i else .error .nbytesOver64 := by
  rw [decode, if_neg (not_not.mpr h1), if_neg (not_not.mpr h0), hop, hn]
  cases i with
  | update n => by_cases h : n.toNat ≤ 64 <;> simp [opcodeOf, nbytesOf, Instr.wellFormed, h]
  | init | finalize | resume | pad => rfl

theorem wellFormed_of_decode {c : Word} {i : Instr} (h : decode c = .ok i) : i.wellFormed = true := by
  obtain ⟨h1, h0, hop, hn⟩ := commandFields_of_decode h
  rw [decode_of_commandFields h1 h0 hop hn] at h
  by_contra hw
  rw [if_neg hw] at h
  cases h

/-- Settles O1: each field of the encoding reads back what the encoder put there, and the decoder reads fields alone. -/
theorem decodeOfEncodeIsTheCommand : Obligations.DecodeOfEncodeIsTheCommand := by
  intro i hw
  obtain ⟨-, hop, h0, h1⟩ := encodingLegal i hw
  rw [decode_of_commandFields h1 h0 hop (nbytesField_encode i), if_pos hw]

/-- Settles O2: the four fields of a word that decodes are those of its command's encoding. -/
theorem encodeOfDecodeIsTheWord : Obligations.EncodeOfDecodeIsTheWord :=
  fun _ _ h => ⟨wellFormed_of_decode h, encode_of_decode h⟩

/-- Settles O4: the decoder, run on each of the twelve words. -/
theorem specWordsDecodeAsWritten : Obligations.SpecWordsDecodeAsWritten := by
  unfold Obligations.SpecWordsDecodeAsWritten
  decide

/-- The five conditions of R84, on the fields of the word (30_encoding.md R84). -/
theorem legalConditions_iff_decodes (c : Word) :
    (res1Field c = 0 ∧ res0Field c = 0 ∧ (opField c).toNat ∈ [1, 2, 3, 4, 5] ∧
      (opField c = 2 → (nbytesField c).toNat ≤ 64) ∧ (opField c ≠ 2 → nbytesField c = 0)) ↔
    ∃ i, decode c = .ok i := by
  constructor
  · rintro ⟨h1, h0, hop, hrange, hzero⟩
    have decodes (i : Instr) (ho : (opField c).toNat = (opcodeOf i).toNat) (hn : nbytesField c = nbytesOf i)
        (hw : i.wellFormed = true) : ∃ i, decode c = .ok i :=
      ⟨i, by rw [decode_of_commandFields h1 h0 (BitVec.eq_of_toNat_eq ho) hn, if_pos hw]⟩
    have plain (h : (opField c).toNat ≠ 2) : nbytesField c = 0 := hzero fun h2 => h (by rw [h2]; rfl)
    simp only [List.mem_cons, List.not_mem_nil, or_false] at hop
    rcases hop with ho | ho | ho | ho | ho
    · exact decodes .init ho (plain (by omega)) rfl
    · exact decodes (.update (nbytesField c)) ho rfl (decide_eq_true (hrange (BitVec.eq_of_toNat_eq ho)))
    · exact decodes .finalize ho (plain (by omega)) rfl
    · exact decodes .resume ho (plain (by omega)) rfl
    · exact decodes .pad ho (plain (by omega)) rfl
  · rintro ⟨i, h⟩
    obtain ⟨h1, h0, hop, hn⟩ := commandFields_of_decode h
    have hw := wellFormed_of_decode h
    rw [hop, hn]
    refine ⟨h1, h0, ?_⟩
    cases i with
    | update n => exact ⟨by simp [opcodeOf], fun _ => of_decide_eq_true hw, fun hne => absurd rfl hne⟩
    | init | finalize | resume | pad => exact ⟨by decide, fun h2 => absurd h2 (by decide), fun _ => rfl⟩

end Sys2Proof

namespace Sys2Proof.Machine

/-- The completion of a word that does not decode (30_encoding.md R84, 60_exceptions.md R202). -/
theorem step_of_illegal {s : State} {c : Word} {e : DecodeError} (hp : s.pending = some c) (hl : s.latencyLeft = 0)
    (hd : decode c = .error e) : step s = .next (s.setErr .illegal).retire := by
  rw [step_of_coreTurn (coreTurn_of_pending hp hl), coreStep_of_pending hp, perform_of_illegal s hd]
  rfl

/-- Settles O3: the five conditions say what the fields of each command's word are; CMD takes any word, and the core
rejects what does not decode. -/
theorem legalWordsAreThoseThatDecode : Obligations.LegalWordsAreThoseThatDecode := by
  refine ⟨legalConditions_iff_decodes, fun s c _ hb => ?_, fun s c hnone hp hl => ?_⟩
  · rw [State.regWrite_cmd c hb]
    exact ⟨rfl, rfl⟩
  · cases hd : decode c with
    | ok i => exact absurd ⟨i, hd⟩ hnone
    | error e => exact step_of_illegal hp hl hd

end Sys2Proof.Machine
end

section
/-! WAIT and EXEC on the bus, for every latency (30_encoding.md R88, 40_streaming.md R100, 70_reset_and_hazards.md
R241). -/

namespace Sys2Proof.Machine

/-! ## The completion -/

/-- The core neither reads nor writes what is outside the block, whatever the word in flight. -/
theorem perform_hostFields (c : Word) (s : State) :
    ∃ t, perform c s = .next t ∧ ∀ p l ls ins rs d,
      perform c { s with
        pending := p, latencyLeft := l, latencies := ls, inputs := ins, responses := rs, draws := d } =
      .next { t with pending := p, latencyLeft := l, latencies := ls, inputs := ins, responses := rs, draws := d } := by
  cases hd : decode c with
  | error e => exact ⟨_, perform_of_illegal s hd, fun _ _ _ _ _ _ => perform_of_illegal _ hd⟩
  | ok i =>
    obtain ⟨t, ht, hframe⟩ := exec_hostFields i s
    refine ⟨t, (perform_of_legal s hd).trans ht, fun p l ls ins rs d => ?_⟩
    rw [perform_of_legal _ hd, hframe]

/-- The completion of the word in flight, once it is due: it does not depend on what the host was told before
(40_streaming.md R100). -/
theorem step_completes {s : State} (hb : s.busy = true) :
    ∃ u : State, u.busy = false ∧ u.latencyLeft = 0 ∧ u.inputs = s.inputs ∧
      ∀ rs, step { s with latencyLeft := 0, responses := rs } = .next { u with responses := rs } := by
  obtain ⟨c, hp⟩ := Option.isSome_iff_exists.mp hb
  obtain ⟨t, -, hframe⟩ := perform_hostFields c s
  refine ⟨{ t with latencies := s.latencies, inputs := s.inputs, draws := s.draws }.retire, rfl, rfl, rfl,
    fun rs => ?_⟩
  have hp' : State.pending { s with latencyLeft := 0, responses := rs } = some c := hp
  rw [step_of_coreTurn (coreTurn_of_pending hp' rfl), coreStep_of_pending hp']
  exact congrArg retireOutcome (hframe s.pending 0 s.latencies s.inputs rs s.draws)

theorem run_one {s t : State} (h : step s = .next t) : Host.Core.run Sys2Proof.core 1 s = .next t :=
  run_succ 0 h

/-! ## WAIT -/

/-- The only turn of WAIT with nothing in flight (30_encoding.md R88). -/
theorem step_of_poll_idle {s : State} {rest : List Input} (hi : s.inputs = .poll :: rest) (hb : s.busy = false) :
    step s = .next { s with
      inputs := rest, responses := s.responses ++ [.value 0x08 s.status], latencyLeft := s.latencyLeft - 1 } := by
  rw [step_of_poll hi (by rw [State.coreTurn, hb]; rfl), hb]
  rfl

/-- The turns of WAIT before the completion: each answers the same STATUS (30_encoding.md R88). -/
theorem run_poll_busy {s : State} {rest : List Input} (hi : s.inputs = .poll :: rest) (hb : s.busy = true) :
    Host.Core.run Sys2Proof.core s.latencyLeft s = .next { s with
      latencyLeft := 0, responses := s.responses ++ List.replicate s.latencyLeft (.value 0x08 s.status) } := by
  generalize hk : s.latencyLeft = k
  induction k generalizing s with
  | zero =>
    exact congrArg Host.Outcome.next (by rw [List.replicate_zero, List.append_nil, ← hk])
  | succ k ih =>
    have hturn : s.coreTurn = false := hostTurn_of (.inr (by omega))
    rw [run_succ k (step_of_poll hi hturn), if_pos hb,
      ih (s := (s.tick.setInputs s.inputs).respond (.value Reg.status.offset s.status)) hi hb (by simp [hk]),
      List.replicate_succ, List.append_cons]
    rfl

theorem run_wait_busy {s u : State} {rest : List Input} (hi : s.inputs = .poll :: rest) (hb : s.busy = true)
    (hidle : u.busy = false) (hlat : u.latencyLeft = 0) (hins : u.inputs = s.inputs)
    (hstep : ∀ rs, step { s with latencyLeft := 0, responses := rs } = .next { u with responses := rs }) :
    Host.Core.run Sys2Proof.core (s.latencyLeft + 2) s = .next { u with
      inputs := rest
      responses := s.responses ++ List.replicate s.latencyLeft (.value 0x08 s.status) ++ [.value 0x08 u.status] } := by
  have hlast rs := step_of_poll_idle (s := { u with responses := rs }) (hins.trans hi) hidle
  rw [run_add _ 2 (run_poll_busy hi hb), run_succ 1 (hstep _), run_one (hlast _), hlat]
  rfl

/-- Settles O39: the turns before the completion leave the block alone, so the completion is that of the state before,
and the turn after it is the last. -/
theorem waitEndsWhenTheCommandCompletes : Obligations.WaitEndsWhenTheCommandCompletes := by
  intro s rest hi
  refine ⟨fun hb => ⟨by rw [s.status_bit0, hb]; rfl, step_of_poll_idle hi hb⟩,
    fun hb => ⟨by rw [s.status_bit0, hb]; rfl, ?_⟩⟩
  obtain ⟨u, hidle, hlat, hins, hstep⟩ := step_completes hb
  have hbit : u.status.extractLsb' 0 1 = 0 := by rw [u.status_bit0, hidle]; rfl
  exact ⟨_, hstep s.responses, hidle, hbit, run_wait_busy hi hb hidle hlat hins hstep⟩

/-! ## EXEC -/

/-- The completion of a word that decodes (40_streaming.md R100). -/
theorem step_of_legal {s t : State} {c : Word} {i : Instr} (hp : s.pending = some c) (hl : s.latencyLeft = 0)
    (hd : decode c = .ok i) (he : exec i s = .next t) : step s = .next t.retire := by
  rw [step_of_coreTurn (coreTurn_of_pending hp hl), coreStep_of_pending hp, perform_of_legal s hd, he]
  rfl

/-- A command does after its acceptance, which clears ERR and OVR, what it would do before with OVR clear. -/
theorem exec_after_accept (i : Instr) (s : State) :
    ∃ t, exec i { s with ovr := false } = .next t ∧ t.pending = s.pending ∧ ∀ p l ls ins rs d,
      exec i { s with
        ovr := false, err := .ok, pending := p, latencyLeft := l, latencies := ls, inputs := ins, responses := rs
        draws := d } =
      .next { t with pending := p, latencyLeft := l, latencies := ls, inputs := ins, responses := rs, draws := d } := by
  obtain ⟨t, ht, -, -, -, -, hovr, hpending, -⟩ := commandsKeepInputRegisters i { s with ovr := false }
  obtain ⟨_, ht', hok⟩ := exec_ignores_err_ovr i { s with ovr := false } .ok false
  cases ht.symm.trans ht'
  obtain ⟨_, hok', hframe⟩ := exec_hostFields i { s with ovr := false, err := .ok }
  cases hok.symm.trans hok'
  refine ⟨t, ht, hpending, fun p l ls ins rs d => (hframe p l ls ins rs d).trans ?_⟩
  rw [hovr]

/-- Settles O56: the write of CMD accepts the word, whose completion WAIT waits for. -/
theorem execPerformsTheCommandAndWaits : Obligations.ExecPerformsTheCommandAndWaits := by
  intro s i rest hw hb hi
  obtain ⟨t, ht, htp, hframe⟩ := exec_after_accept i s
  have hnone : t.pending = none := htp.trans (Option.isNone_iff_eq_none.mp (Option.isSome_eq_false_iff.mp hb))
  have hidle : t.busy = false := by rw [State.busy, hnone]; rfl
  let a := (s.tick.setInputs (.poll :: rest)).accept (encode i)
  have haccept : step s = .next a := step_of_cmdWrite hi hb
  let u : State := { t with latencyLeft := 0, latencies := a.latencies, inputs := a.inputs, draws := a.draws }
  have hcompletes rs : step { a with latencyLeft := 0, responses := rs } = .next { u with responses := rs } := by
    have hstep := step_of_legal (s := { a with latencyLeft := 0, responses := rs }) rfl rfl
      (decodeOfEncodeIsTheCommand i hw) (hframe _ _ _ _ _ _)
    rw [hstep, State.retire, ← hnone]
  have hwait := run_wait_busy (s := a) (u := u) rfl rfl hidle rfl rfl hcompletes
  refine ⟨t, _, _, ht, hidle, ?_, ?_, (run_succ _ haccept).trans hwait⟩
  · rw [t.status_bit0, hidle]
    rfl
  · intro r hr
    rw [List.eq_of_mem_replicate hr]
    exact ⟨_, rfl, a.status_bit0⟩

end Sys2Proof.Machine
end

section
/-! The host's loads and its reads of the digest and of STATUS as bus accesses while BUSY = 0 (30_encoding.md R88,
20_memory.md R58 to R62, R67, R68). -/

namespace Sys2Proof.Machine

/-! ## A row of writes -/

@[simp] theorem State.writeInput_busy (s : State) (w : Word) (r : Reg) : (s.writeInput w r).busy = s.busy := by
  cases r <;> rfl

/-- A write of an input register neither reads nor writes the inputs still to come or the latency. -/
theorem State.writeInput_setHost (s : State) (w : Word) (r : Reg) (ins : List Input) (l : Nat) :
    State.writeInput { s with inputs := ins, latencyLeft := l } w r =
      { s.writeInput w r with inputs := ins, latencyLeft := l } := by
  cases r <;> rfl

/-- A host step that writes an input register, or a register that ignores writes, with nothing in flight. -/
theorem step_of_inputWrite {s : State} {r : Reg} {w : Word} {rest : List Input} (hi : s.inputs = wr r w :: rest)
    (hb : s.busy = false) (hr : r ≠ .cmd) :
    step s = .next { s.writeInput w r with inputs := rest, latencyLeft := s.latencyLeft - 1 } := by
  rw [step_of_write hi hb, State.regWrite_offset w (s := s.tick.setInputs rest) hb hr]
  exact congrArg Host.Outcome.next (s.writeInput_setHost w r rest _)

/-- The bus writes of a row of words to registers. -/
def writeOps (ws : List (Reg × Word)) : List Input := ws.map fun x => wr x.1 x.2

/-- The state after a row of writes to input registers. -/
def State.writeInputs (s : State) (ws : List (Reg × Word)) : State := ws.foldl (fun t x => t.writeInput x.2 x.1) s

theorem State.writeInputs_setHost (s : State) (ws : List (Reg × Word)) (ins : List Input) (l : Nat) :
    State.writeInputs { s with inputs := ins, latencyLeft := l } ws =
      { s.writeInputs ws with inputs := ins, latencyLeft := l } := by
  induction ws generalizing s with
  | nil => rfl
  | cons x ws ih =>
    exact (congrArg (State.writeInputs · ws) (s.writeInput_setHost x.2 x.1 ins l)).trans (ih (s.writeInput x.2 x.1))

/-- A run of bus writes of input registers with nothing in flight (20_memory.md R68). -/
theorem run_writeOps {s : State} {rest : List Input} (ws : List (Reg × Word)) (hws : ∀ x ∈ ws, x.1 ≠ .cmd)
    (hb : s.busy = false) (hi : s.inputs = writeOps ws ++ rest) :
    Host.Core.run Sys2Proof.core ws.length s = .next { s.writeInputs ws with
      inputs := rest, latencyLeft := s.latencyLeft - ws.length } := by
  induction ws generalizing s with
  | nil => exact congrArg Host.Outcome.next (by rw [← show s.inputs = rest from hi]; rfl)
  | cons x ws ih =>
    have hstep : step s = _ := step_of_inputWrite (rest := writeOps ws ++ rest) hi hb (hws x List.mem_cons_self)
    have hrest := ih
      (s := { s.writeInput x.2 x.1 with inputs := writeOps ws ++ rest, latencyLeft := s.latencyLeft - 1 })
      (fun y hy => hws y (List.mem_cons_of_mem x hy)) ((s.writeInput_busy _ _).trans hb) rfl
    rw [List.length_cons, run_succ _ hstep, hrest, State.writeInputs_setHost, Nat.sub_sub, Nat.add_comm 1]
    rfl

/-! ## Files of words -/

/-- The first k words of a file written one after another. -/
theorem foldl_set_eq_ofFn {n : Nat} [NeZero n] (v : Vector Word n) (f : Nat → Word) (k : Nat) (hk : k ≤ n) :
    (List.range k).foldl (fun u i => u.set (Fin.ofNat n i) (f i)) v =
      Vector.ofFn fun i : Fin n => if i < k then f i else v.get i := by
  induction k with
  | zero => ext i hi; simp [Vector.get_eq_getElem]
  | succ k ih =>
    rw [List.range_succ, List.foldl_append, ih (by omega)]
    ext i hi
    have hmod : k % n = k := Nat.mod_eq_of_lt hk
    simp only [List.foldl_cons, List.foldl_nil, Fin.val_ofNat, hmod, Vector.getElem_set, Vector.getElem_ofFn]
    split
    · subst i
      simp
    · have hlt : i < k ↔ i < k + 1 := by omega
      simp [hlt]

theorem State.writeInputs_msg (s : State) (f : Nat → Word) (l : List Nat) :
    s.writeInputs (l.map fun i => (.msg (Fin.ofNat 16 i), f i)) =
      { s with msg := l.foldl (fun u i => u.set (Fin.ofNat 16 i) (f i)) s.msg } := by
  induction l generalizing s with
  | nil => rfl
  | cons i l ih => exact ih (s.setMsg (Fin.ofNat 16 i) (f i))

theorem State.writeInputs_din (s : State) (f : Nat → Word) (l : List Nat) :
    s.writeInputs (l.map fun i => (.din (Fin.ofNat 8 i), f i)) =
      { s with din := l.foldl (fun u i => u.set (Fin.ofNat 8 i) (f i)) s.din } := by
  induction l generalizing s with
  | nil => rfl
  | cons i l ih => exact ih (s.setDin (Fin.ofNat 8 i) (f i))

/-! ## The loads -/

theorem run_loadMsgOps {s : State} {rest : List Input} {c : List Byte} (hc : c.length ≤ 64) (hb : s.busy = false)
    (hi : s.inputs = loadMsgOps c ++ rest) :
    Host.Core.run Sys2Proof.core (loadMsgOps c).length s = .next { s.loadMsg c with
      inputs := rest, latencyLeft := s.latencyLeft - (loadMsgOps c).length } := by
  let ws : List (Reg × Word) := (List.range ((c.length + 3) / 4)).map fun i => (.msg (Fin.ofNat 16 i), word32 c i)
  have hops : loadMsgOps c = writeOps ws := by simp [loadMsgOps, writeOps, ws]
  have hlen : (loadMsgOps c).length = ws.length := by rw [hops, writeOps, List.length_map]
  rw [hlen, run_writeOps ws (by simp [ws]) hb (hops ▸ hi), State.writeInputs_msg, foldl_set_eq_ofFn _ _ _ (by omega)]
  rfl

theorem run_loadDigestOps {s : State} {rest : List Input} (d : List Byte) (hb : s.busy = false)
    (hi : s.inputs = loadDigestOps d ++ rest) :
    Host.Core.run Sys2Proof.core 8 s = .next { s with
      din := bytesWords 8 d, inputs := rest, latencyLeft := s.latencyLeft - 8 } := by
  let ws : List (Reg × Word) := (List.range 8).map fun i => (.din (Fin.ofNat 8 i), word32 d i)
  have hrun := run_writeOps ws (by simp [ws]) hb hi
  rw [State.writeInputs_din, foldl_set_eq_ofFn _ _ _ le_rfl] at hrun
  have hdin : (Vector.ofFn fun i : Fin 8 => if i.val < 8 then word32 d i else s.din.get i) = bytesWords 8 d := by
    simp [bytesWords]
  rw [hdin] at hrun
  exact hrun

theorem setHiHalf_setLoHalf (x v : DWord) : setHiHalf (setLoHalf x (loHalf v)) (hiHalf v) = v := by
  apply BitVec.eq_of_toNat_eq
  rw [toNat_setHiHalf, toNat_setLoHalf, toNat_loHalf, toNat_hiHalf]
  omega

theorem run_setCntOps {s : State} {rest : List Input} (v : DWord) (hb : s.busy = false)
    (hi : s.inputs = setCntOps v ++ rest) :
    Host.Core.run Sys2Proof.core 2 s = .next { s with
      cntin := v, inputs := rest, latencyLeft := s.latencyLeft - 2 } := by
  have hset : s.writeInputs [(.cntinLo, loHalf v), (.cntinHi, hiHalf v)] = s.setCntin v :=
    congrArg s.setCntin (setHiHalf_setLoHalf s.cntin v)
  have hrun := run_writeOps [(.cntinLo, loHalf v), (.cntinHi, hiHalf v)] (by simp) hb hi
  rw [hset] at hrun
  exact hrun

theorem run_setPadLenOps {s : State} {rest : List Input} (l : DWord) (hb : s.busy = false)
    (hi : s.inputs = setPadLenOps l ++ rest) :
    Host.Core.run Sys2Proof.core 2 s = .next { s with
      padlen := l, inputs := rest, latencyLeft := s.latencyLeft - 2 } := by
  have hset : s.writeInputs [(.padlenLo, loHalf l), (.padlenHi, hiHalf l)] = s.setPadlen l :=
    congrArg s.setPadlen (setHiHalf_setLoHalf s.padlen l)
  have hrun := run_writeOps [(.padlenLo, loHalf l), (.padlenHi, hiHalf l)] (by simp) hb hi
  rw [hset] at hrun
  exact hrun

/-- Byte 4i + k of a file of words is byte k of word i (20_memory.md R59, R61, R64). -/
theorem getElem?_flatMap_be32 (l : List Word) (i k : Nat) (hk : k < 4) :
    (l.flatMap be32)[4 * i + k]? = l[i]?.bind fun w => (be32 w)[k]? := by
  induction l generalizing i with
  | nil => rfl
  | cons w l ih =>
    rw [List.flatMap_cons]
    cases i with
    | zero => rw [List.getElem?_append_left (by rw [length_be32]; omega), Nat.mul_zero, Nat.zero_add]; rfl
    | succ i =>
      rw [List.getElem?_append_right (by rw [length_be32]; omega), length_be32,
        show 4 * (i + 1) + k - 4 = 4 * i + k by omega, ih]
      rfl

/-- UPDATE |c| after LOADMSG c takes exactly the bytes c (20_memory.md R61). -/
theorem State.chunk_loadMsg (s : State) {c : List Byte} (hc : c.length ≤ 64) : (s.loadMsg c).chunk c.length = c := by
  apply List.ext_getElem?
  intro j
  by_cases hj : j < c.length
  · have hword : (s.loadMsg c).msg.toList[j / 4]? = some (word32 c (j / 4)) := by
      have hwritten : j / 4 < (c.length + 3) / 4 := by omega
      simp [show j / 4 < 16 by omega, hwritten]
    have hbyte := getElem?_flatMap_be32 (s.loadMsg c).msg.toList (j / 4) (j % 4) (Nat.mod_lt _ (by omega))
    rw [hword, Option.bind_some, word32_bytes _ _ _ (Nat.mod_lt _ (by omega)), Nat.div_add_mod] at hbyte
    rw [State.chunk, List.getElem?_take_of_lt hj, State.msgBytes, wordsBytes, hbyte, List.getD_eq_getElem _ _ hj,
      List.getElem?_eq_getElem hj]
  · rw [List.getElem?_eq_none (by rw [length_chunk]; omega), List.getElem?_eq_none (by omega)]

/-- Settles O54: each load is a row of writes of its own register file or of the two halves of its register. -/
theorem hostNotationLoadsItsRegisters : Obligations.HostNotationLoadsItsRegisters := fun s _ hb =>
  ⟨fun _ hc hi => ⟨run_loadMsgOps hc hb hi, s.chunk_loadMsg hc⟩, fun d _ hi => run_loadDigestOps d hb hi,
    fun v hi => run_setCntOps v hb hi, fun l hi => run_setPadLenOps l hb hi⟩

/-! ## A row of reads -/

/-- What a register holds does not depend on what is outside the block. -/
theorem State.regValue_setHost (s : State) (r : Reg) (ins : List Input) (rs : List Response) (l : Nat) :
    State.regValue { s with inputs := ins, responses := rs, latencyLeft := l } r = s.regValue r := by
  cases r <;> rfl

/-- A run of bus reads with nothing in flight (20_memory.md R67). -/
theorem run_reads {s : State} {rest : List Input} (regs : List Reg) (hb : s.busy = false)
    (hi : s.inputs = regs.map rd ++ rest) :
    Host.Core.run Sys2Proof.core regs.length s = .next { s with
      inputs := rest, latencyLeft := s.latencyLeft - regs.length
      responses := s.responses ++ regs.map fun r => .value r.offset (s.regValue r) } := by
  induction regs generalizing s with
  | nil =>
    refine congrArg Host.Outcome.next ?_
    rw [← show s.inputs = rest from hi, List.map_nil, List.append_nil]
    rfl
  | cons r regs ih =>
    let s' : State := { s with
      inputs := regs.map rd ++ rest, responses := s.responses ++ [.value r.offset (s.regValue r)]
      latencyLeft := s.latencyLeft - 1 }
    have hread : step s = .next s' := step_of_read hi hb
    have hkeep (q : Reg) : s'.regValue q = s.regValue q := s.regValue_setHost q _ _ _
    rw [List.length_cons, run_succ _ hread, ih (s := s') hb rfl, Nat.sub_sub, Nat.add_comm 1]
    simp only [hkeep, List.map_cons, List.append_assoc, List.singleton_append, s']

/-- The bytes of V, word by word (20_memory.md R59). -/
theorem State.digest_eq_flatMap (s : State) : s.digest = (List.finRange 8).flatMap fun i => be32 (s.v.get i) := by
  have hlist : s.v.toList = (List.finRange 8).map s.v.get := by
    exact List.ext_getElem (by simp) (by simp [Vector.get_eq_getElem])
  rw [State.digest, wordsBytes, hlist, List.flatMap_map]

/-- The eight reads of READDIGEST with nothing in flight (30_encoding.md R88). -/
theorem run_readDigestOps {s : State} {rest : List Input} (hb : s.busy = false)
    (hi : s.inputs = readDigestOps ++ rest) :
    Host.Core.run Sys2Proof.core 8 s = .next { s with
      inputs := rest, latencyLeft := s.latencyLeft - 8
      responses := s.responses ++ (List.finRange 8).map fun i => .value (0x20 + 4 * BitVec.ofNat 8 i) (s.v.get i) } :=
  run_reads ((List.finRange 8).map Reg.state) hb hi

/-- Settles O55: the answers are the words of V and STATUS, which no read changes. -/
theorem readDigestAnswersTheChainingState : Obligations.ReadDigestAnswersTheChainingState := fun s _ hb =>
  ⟨fun hi => ⟨run_readDigestOps hb hi, s.digest_eq_flatMap⟩, fun hi => step_of_read hi hb⟩

end Sys2Proof.Machine
end

section
/-! The context of a message fed piece by piece, and the digest that FINALIZE makes of it (40_streaming.md R102 to R105,
43_padding.md R181, R184). -/

namespace Sys2Proof.Machine

/-! ## Whole blocks and the rest -/

/-- The bytes of m past its last whole 64-byte block. -/
def restBytes (m : List Byte) : List Byte := m.drop (64 * (m.length / 64))

@[simp] theorem length_restBytes (m : List Byte) : (restBytes m).length = m.length % 64 := by
  rw [restBytes, List.length_drop]
  omega

theorem restBytes_of_length_lt {m : List Byte} (h : m.length < 64) : restBytes m = m := by
  rw [restBytes, Nat.div_eq_of_lt h]
  rfl

theorem restBytes_append (m c : List Byte) : restBytes (restBytes m ++ c) = restBytes (m ++ c) := by
  have hle : 64 * (m.length / 64) ≤ m.length := Nat.mul_div_le _ _
  rw [restBytes, restBytes, restBytes, ← List.drop_append_of_le_length hle, List.drop_drop, List.length_drop,
    List.length_append]
  congr 1
  omega

theorem compressWhole_restBytes_append (v : Vector Word 8) (m c : List Byte) :
    compressWhole (compressWhole v m) (restBytes m ++ c) = compressWhole v (m ++ c) :=
  (compressWhole_append v m c).symm

theorem compressWhole_append_of_blocks (v : Vector Word 8) {m : List Byte} (c : List Byte) (h : m.length % 64 = 0) :
    compressWhole v (m ++ c) = compressWhole (compressWhole v m) c := by
  have hrest : restBytes m = [] := List.eq_nil_of_length_eq_zero (by rw [length_restBytes, h])
  rw [← compressWhole_restBytes_append, hrest, List.nil_append]

theorem compressWhole_block (v : Vector Word 8) {b : List Byte} (h : b.length = 64) : compressWhole v b = cf v b := by
  rw [compressWhole_of_one_block v b (by omega) (by omega), List.take_of_length_le (by omega)]

/-- Absorbing less than two blocks, in both of UPDATE's cases (40_streaming.md R102). -/
theorem State.absorb_eq (s : State) {b : List Byte} (h : b.length < 128) :
    s.absorb b = s.setContext (compressWhole s.v b) (s.cnt + BitVec.ofNat 64 (512 * (b.length / 64))) (restBytes b)
      s.phase := by
  by_cases hb : b.length < 64
  · rw [State.absorb_of_lt hb, compressWhole_of_length_lt _ _ hb, restBytes_of_length_lt hb, Nat.div_eq_of_lt hb]
    simp
  · have hone : b.length / 64 = 1 := by omega
    rw [State.absorb_of_ge (Nat.not_lt.mp hb), compressWhole_of_one_block _ _ (Nat.not_lt.mp hb) h, restBytes, hone]
    rfl

/-! ## A message being fed -/

/-- The context of s is the one that starts from the chaining state v and the count n, n bits, after the bytes m
(10_state.md R22 to R25, 40_streaming.md R103). -/
structure State.Fed (v : Vector Word 8) (n : Nat) (m : List Byte) (s : State) : Prop where
  phase : s.phase = .active
  v : s.v = compressWhole v m
  cnt : s.cnt.toNat = n + 512 * (m.length / 64)
  buf : s.buf = restBytes m

theorem State.Fed.congr {v : Vector Word 8} {n : Nat} {m : List Byte} {s t : State} (h : s.Fed v n m)
    (hop : SameHashOperands s t) : t.Fed v n m :=
  ⟨hop.phase.trans h.phase, hop.v.trans h.v, hop.cnt ▸ h.cnt, hop.buf.trans h.buf⟩

/-- A new context has been fed nothing (40_streaming.md R101, 41_resume_export.md R130). -/
theorem State.fed_nil {s : State} (hp : s.phase = .active) (hb : s.buf = []) : s.Fed s.v s.cnt.toNat [] :=
  ⟨hp, rfl, rfl, hb⟩

section
variable {v : Vector Word 8} {n : Nat} {m : List Byte} {s : State} (h : s.Fed v n m)
include h

theorem State.Fed.length_buf : s.buf.length = m.length % 64 := by rw [h.buf, length_restBytes]

theorem State.Fed.totalBits : s.totalBits = n + 8 * m.length := by
  rw [State.totalBits, h.cnt, h.length_buf]
  omega

theorem State.Fed.refusal : s.phase.refusal = none := by rw [h.phase]; rfl

/-- UPDATE of the bytes c, within the 64-bit bound, feeds c (40_streaming.md R102). -/
theorem State.Fed.update {k : BitVec 7} {c : List Byte} (hk : k.toNat = c.length) (hc : c.length ≤ 64)
    (hchunk : s.chunk c.length = c) (hbound : n + 8 * (m.length + c.length) ≤ 2 ^ 64 - 1) :
    ∃ t, exec (.update k) s = .next t ∧ t.Fed v n (m ++ c) ∧ t.err = .ok := by
  have htotal := h.totalBits
  rw [State.totalBits] at htotal
  have hfits : s.updateTooLong k.toNat = false := by
    rw [← Bool.not_eq_true, State.updateTooLong_iff, hk]
    omega
  have hlen : (s.buf ++ c).length = m.length % 64 + c.length := by rw [List.length_append, h.length_buf]
  have hcnt := h.cnt
  refine ⟨_, execUpdate_of_fits h.refusal hfits, ?_, rfl⟩
  rw [hk, hchunk, State.absorb_eq s (by omega)]
  refine ⟨h.phase, ?_, ?_, ?_⟩
  · simp only [State.setErr_v, State.setContext_v, h.v, h.buf, compressWhole_restBytes_append]
  · simp only [State.setErr_cnt, State.setContext_cnt, BitVec.toNat_add, BitVec.toNat_ofNat, hlen, List.length_append]
    omega
  · simp only [State.setErr_buf, State.setContext_buf, h.buf, restBytes_append]

end

/-! ## The padding of FINALIZE -/

theorem zeros_add (a b : Nat) : zeros (a + b) = zeros a ++ zeros b := List.replicate_add ..

theorem length_lengthBlock {m : List Byte} (total : Nat) (h : m.length ≤ 56) : (lengthBlock m total).length = 64 := by
  simp only [lengthBlock, List.length_append, length_zeros, length_be64]
  omega

/-- The padding after a last block with room for the length field (43_padding.md R181). -/
theorem append_paddingFor_short {buf : List Byte} {l : Nat} (hl : l % 64 = buf.length)
    (h : (buf ++ [0x80]).length ≤ 56) : buf ++ paddingFor l = lengthBlock (buf ++ [0x80]) (8 * l) := by
  rw [List.length_append, List.length_singleton] at h
  have hz : padZeros l = 56 - (buf ++ [0x80]).length := by
    rw [padZeros, List.length_append, List.length_singleton]
    omega
  simp only [paddingFor, lengthBlock, hz, List.append_assoc]

/-- The padding after a last block without that room: it runs over into a block of its own (43_padding.md R181). -/
theorem append_paddingFor_long {buf : List Byte} {l : Nat} (hl : l % 64 = buf.length)
    (h : 56 < (buf ++ [0x80]).length) :
    buf ++ paddingFor l = (buf ++ [0x80] ++ zeros (64 - (buf ++ [0x80]).length)) ++ lengthBlock [] (8 * l) := by
  rw [List.length_append, List.length_singleton] at h
  have hz : padZeros l = 64 - (buf ++ [0x80]).length + 56 := by
    rw [padZeros, List.length_append, List.length_singleton]
    omega
  simp only [paddingFor, lengthBlock, hz, zeros_add, List.append_assoc, List.nil_append, List.length_nil, Nat.sub_zero]

/-- FINALIZE's last blocks are the padding that the calculator gives for the whole length (43_padding.md R184). -/
theorem finalizeChaining_eq (v : Vector Word 8) {buf : List Byte} {l : Nat} (hl : l % 64 = buf.length) :
    finalizeChaining v buf (8 * l) = compressWhole v (buf ++ paddingFor l) := by
  unfold finalizeChaining
  by_cases h : (buf ++ [0x80]).length > 56
  · have hfull : (buf ++ [(0x80 : Byte)] ++ zeros (64 - (buf ++ [(0x80 : Byte)]).length)).length = 64 := by
      simp only [List.length_append, List.length_singleton, length_zeros]
      omega
    rw [append_paddingFor_long hl h, compressWhole_append_of_blocks v _ (by rw [hfull]), compressWhole_block v hfull,
      compressWhole_block _ (length_lengthBlock _ (Nat.zero_le _))]
    exact if_pos h
  · rw [append_paddingFor_short hl (Nat.not_lt.mp h), compressWhole_block v (length_lengthBlock _ (Nat.not_lt.mp h))]
    exact if_neg h

/-- FINALIZE of a context whose count was a whole number of blocks (40_streaming.md R104, R105). -/
theorem State.Fed.finalize {v : Vector Word 8} {n : Nat} {m : List Byte} {s : State} (h : s.Fed v n m)
    (hn : n % 512 = 0) :
    exec .finalize s = .next ((s.setContext (compressWhole v (m ++ paddingFor (n / 8 + m.length)))
      (BitVec.ofNat 64 (n + 8 * m.length)) [] .final).setErr .ok) := by
  have htotal : s.totalBits = 8 * (n / 8 + m.length) := by rw [h.totalBits]; omega
  have hlen : (n / 8 + m.length) % 64 = s.buf.length := by rw [h.length_buf]; omega
  have hchain : finalizeChaining s.v s.buf s.totalBits = compressWhole v (m ++ paddingFor (n / 8 + m.length)) := by
    rw [htotal, finalizeChaining_eq s.v hlen, h.v, h.buf, compressWhole_restBytes_append]
  rw [← hchain, ← h.totalBits]
  exact execFinalize_of_active h.refusal

end Sys2Proof.Machine
end

section
/-! Whole messages as host programs (30_encoding.md R88, 40_streaming.md R105, 41_resume_export.md R135). -/

namespace Sys2Proof.Machine

/-! ## Programs one after another -/

/-- The host has run from s to u with the inputs `rest` left and nothing in flight, and its answers have only grown. -/
structure ReachesIdle (s : State) (rest : List Input) (u : State) : Prop where
  run : ∃ n, Host.Core.run Sys2Proof.core n s = .next u
  inputs : u.inputs = rest
  idle : u.busy = false
  answers : s.responses <+: u.responses

theorem ReachesIdle.refl {s : State} (hb : s.busy = false) : ReachesIdle s s.inputs s :=
  ⟨⟨0, rfl⟩, rfl, hb, List.prefix_rfl⟩

theorem ReachesIdle.trans {s t u : State} {ins rest : List Input} (h : ReachesIdle s ins t)
    (h' : ReachesIdle t rest u) : ReachesIdle s rest u := by
  obtain ⟨m, hm⟩ := h.run
  obtain ⟨n, hn⟩ := h'.run
  exact ⟨⟨m + n, (run_add m n hm).trans hn⟩, h'.inputs, h'.idle, h.answers.trans h'.answers⟩

/-- A run with no answers that ends in t, but for the inputs still to come and the latency, with nothing in flight. -/
theorem ReachesIdle.of_loads {s t : State} {n l : Nat} {rest : List Input}
    (hrun : Host.Core.run Sys2Proof.core n s = .next { t with inputs := rest, latencyLeft := l }) (hb : t.busy = false)
    (hr : t.responses = s.responses) : ReachesIdle s rest { t with inputs := rest, latencyLeft := l } :=
  ⟨⟨n, hrun⟩, rfl, hb, by rw [← hr]⟩

/-- EXEC i ends in the context and the code that i leaves, with OVR clear (30_encoding.md R88). -/
theorem reaches_execOps {s t : State} {i : Instr} {rest : List Input} (hw : i.wellFormed = true) (hb : s.busy = false)
    (hi : s.inputs = execOps i ++ rest) (he : exec i { s with ovr := false } = .next t) :
    ∃ u, ReachesIdle s rest u ∧ SameHashOperands t u ∧ u.err = t.err ∧ u.ovr = false := by
  obtain ⟨t', n, log, he', hidle, -, -, hrun⟩ := execPerformsTheCommandAndWaits s i rest hw hb hi
  cases he.symm.trans he'
  obtain ⟨_, he', -, -, -, -, hovr, -⟩ := commandsKeepInputRegisters i { s with ovr := false }
  cases he.symm.trans he'
  exact ⟨_, ⟨⟨n, hrun⟩, rfl, hidle, by rw [List.append_assoc]; exact List.prefix_append _ _⟩,
    ⟨rfl, rfl, rfl, rfl, rfl, rfl, rfl⟩, rfl, hovr⟩

/-! ## ABSORB -/

theorem flatten_chunks64 {n : Nat} {m : List Byte} (h : m.length ≤ n) : (chunks64 n m).flatten = m := by
  induction n generalizing m with
  | zero => exact (List.eq_nil_of_length_eq_zero (Nat.le_zero.mp h)).symm
  | succ n ih =>
    rw [chunks64]
    cases m with
    | nil => rfl
    | cons b m =>
      simp only [List.isEmpty_cons, Bool.false_eq_true, if_false, List.flatten_cons]
      rw [ih (by rw [List.length_drop]; omega), List.take_append_drop]

theorem length_le_of_mem_chunks64 {n : Nat} {m c : List Byte} (h : c ∈ chunks64 n m) : c.length ≤ 64 := by
  induction n generalizing m with
  | zero => cases h
  | succ n ih =>
    rw [chunks64] at h
    split at h
    · cases h
    · rcases List.mem_cons.mp h with rfl | h
      · exact List.length_take_le _ _
      · exact ih h

section
variable {v : Vector Word 8} {n : Nat} {m : List Byte} {s : State} {rest : List Input}

theorem State.Fed.loadMsg (h : s.Fed v n m) (c : List Byte) : (s.loadMsg c).Fed v n m where
  phase := by rw [State.loadMsg_phase, h.phase]
  v := by rw [State.loadMsg_v, h.v]
  cnt := by rw [State.loadMsg_cnt, h.cnt]
  buf := by rw [State.loadMsg_buf, h.buf]

/-- The inputs still to come and the latency are no part of a fed context or of UPDATE's chunk. -/
theorem State.Fed.setHost_chunk {c : List Byte} (h : s.Fed v n m) (hchunk : s.chunk c.length = c) (ins : List Input)
    (l : Nat) : State.Fed v n m { s with inputs := ins, latencyLeft := l } ∧
      State.chunk { s with inputs := ins, latencyLeft := l } c.length = c :=
  ⟨⟨h.phase, h.v, h.cnt, h.buf⟩, hchunk⟩

/-- LOADMSG c leaves the context and makes c UPDATE's chunk. -/
theorem State.Fed.reaches_loadMsgOps {c : List Byte} (h : s.Fed v n m) (hb : s.busy = false) (hc : c.length ≤ 64)
    (hi : s.inputs = loadMsgOps c ++ rest) :
    ∃ u, ReachesIdle s rest u ∧ u.Fed v n m ∧ u.chunk c.length = c :=
  ⟨_, .of_loads (run_loadMsgOps hc hb hi) ((s.loadMsg_busy c).trans hb) (s.loadMsg_responses c),
    (h.loadMsg c).setHost_chunk (s.chunk_loadMsg hc) _ _⟩

/-- LOADMSG c; EXEC UPDATE |c| feeds c. -/
theorem State.Fed.reaches_updateOps {c : List Byte} (h : s.Fed v n m) (hb : s.busy = false) (hc : c.length ≤ 64)
    (hbound : n + 8 * (m.length + c.length) ≤ 2 ^ 64 - 1) (hi : s.inputs = updateOps c ++ rest) :
    ∃ u, ReachesIdle s rest u ∧ u.Fed v n (m ++ c) := by
  rw [updateOps, List.append_assoc] at hi
  obtain ⟨s', hload, h', hchunk⟩ := h.reaches_loadMsgOps hb hc hi
  have hk : (BitVec.ofNat 7 c.length).toNat = c.length := by rw [BitVec.toNat_ofNat]; omega
  have hclear : State.Fed v n m { s' with ovr := false } := ⟨h'.phase, h'.v, h'.cnt, h'.buf⟩
  obtain ⟨t, ht, htfed, -⟩ := hclear.update hk hc hchunk hbound
  obtain ⟨u, hreach, hsame, -⟩ := reaches_execOps (i := .update _) (decide_eq_true (hk.trans_le hc)) hload.idle
    hload.inputs ht
  exact ⟨u, hload.trans hreach, htfed.congr hsame⟩

theorem State.Fed.reaches_chunks (h : s.Fed v n m) (hb : s.busy = false) (cs : List (List Byte))
    (hcs : ∀ c ∈ cs, c.length ≤ 64) (hbound : n + 8 * (m.length + cs.flatten.length) ≤ 2 ^ 64 - 1)
    (hi : s.inputs = cs.flatMap updateOps ++ rest) :
    ∃ u, ReachesIdle s rest u ∧ u.Fed v n (m ++ cs.flatten) := by
  induction cs generalizing s m with
  | nil => exact ⟨s, (show s.inputs = rest from hi) ▸ .refl hb, by simpa using h⟩
  | cons c cs ih =>
    rw [List.flatten_cons, List.length_append] at hbound
    obtain ⟨t, hreach, ht⟩ := h.reaches_updateOps (rest := cs.flatMap updateOps ++ rest) hb
      (hcs c List.mem_cons_self) (by omega) (by rw [hi, List.flatMap_cons, List.append_assoc])
    obtain ⟨u, hreach', hu⟩ := ih ht hreach.idle (fun d hd => hcs d (List.mem_cons_of_mem c hd))
      (by rw [List.length_append]; omega) hreach.inputs
    exact ⟨u, hreach.trans hreach', by rwa [List.flatten_cons, ← List.append_assoc]⟩

/-- ABSORB x feeds x. -/
theorem State.Fed.reaches_absorbOps {x : List Byte} (h : s.Fed v n m) (hb : s.busy = false)
    (hbound : n + 8 * (m.length + x.length) ≤ 2 ^ 64 - 1) (hi : s.inputs = absorbOps x ++ rest) :
    ∃ u, ReachesIdle s rest u ∧ u.Fed v n (m ++ x) := by
  have hx : (chunks64 x.length x).flatten = x := flatten_chunks64 le_rfl
  have hreach := h.reaches_chunks (rest := rest) hb _ (fun _ hc => length_le_of_mem_chunks64 hc) (by rwa [hx]) hi
  rwa [hx] at hreach

end

/-! ## FINALIZE and READDIGEST -/

/-- From s the host has run to t and read the digest d of a message of n bits: it is V and the last eight answers
(40_streaming.md R105). -/
structure ReachesDigest (s : State) (rest : List Input) (d : Vector Word 8) (n : Nat) (t : State) : Prop where
  run : ∃ k, Host.Core.run Sys2Proof.core k s = .next t
  inputs : t.inputs = rest
  idle : t.busy = false
  v : t.v = d
  cnt : t.cnt.toNat = n
  buf : t.buf = []
  phase : t.phase = .final
  err : t.err = .ok
  ovr : t.ovr = false
  answers : ∃ log, t.responses = s.responses ++ log ++
    (List.finRange 8).map fun i => .value (0x20 + 4 * BitVec.ofNat 8 i) (d.get i)

theorem ReachesIdle.reachesDigest {s t u : State} {ins rest : List Input} {d : Vector Word 8} {n : Nat}
    (h : ReachesIdle s ins t) (h' : ReachesDigest t rest d n u) : ReachesDigest s rest d n u := by
  obtain ⟨j, hj⟩ := h.run
  obtain ⟨k, hk⟩ := h'.run
  obtain ⟨a, ha⟩ := h.answers
  obtain ⟨b, hb⟩ := h'.answers
  exact { h' with
    run := ⟨j + k, (run_add j k hj).trans hk⟩
    answers := ⟨a ++ b, by rw [hb, ← ha, List.append_assoc s.responses]⟩ }

/-- READDIGEST after a successful FINALIZE. -/
theorem reachesDigest_of_readDigestOps {s : State} {rest : List Input} (hb : s.busy = false) (hbuf : s.buf = [])
    (hp : s.phase = .final) (he : s.err = .ok) (ho : s.ovr = false) (hi : s.inputs = readDigestOps ++ rest) :
    ∃ t, ReachesDigest s rest s.v s.cnt.toNat t :=
  ⟨_, ⟨⟨8, run_readDigestOps hb hi⟩, rfl, hb, rfl, rfl, hbuf, hp, he, ho,
    ⟨[], by rw [List.append_nil]⟩⟩⟩

/-- EXEC FINALIZE; READDIGEST reads the digest of what has been fed, when the count started at a block boundary
(40_streaming.md R105, 43_padding.md R184). -/
theorem State.Fed.reachesDigest {v : Vector Word 8} {n : Nat} {m : List Byte} {s : State} {rest : List Input}
    (h : s.Fed v n m) (hn : n % 512 = 0) (hbound : n + 8 * m.length ≤ 2 ^ 64 - 1) (hb : s.busy = false)
    (hi : s.inputs = execOps .finalize ++ (readDigestOps ++ rest)) :
    ∃ t, ReachesDigest s rest (compressWhole v (m ++ paddingFor (n / 8 + m.length))) (n + 8 * m.length) t := by
  have hclear : State.Fed v n m { s with ovr := false } := ⟨h.phase, h.v, h.cnt, h.buf⟩
  obtain ⟨u, hreach, hsame, herr, hovr⟩ := reaches_execOps rfl hb hi (hclear.finalize hn)
  obtain ⟨t, ht⟩ := reachesDigest_of_readDigestOps hreach.idle hsame.buf hsame.phase herr hovr hreach.inputs
  have hcnt : u.cnt.toNat = n + 8 * m.length := by
    rw [hsame.cnt]
    exact Nat.mod_eq_of_lt (by omega)
  rw [hsame.v, hcnt] at ht
  exact ⟨t, hreach.reachesDigest ht⟩

/-- ABSORB x; EXEC FINALIZE; READDIGEST in a new context whose count is at a block boundary. -/
theorem State.Fed.absorb_reachesDigest {v : Vector Word 8} {n : Nat} {x : List Byte} {s : State} {rest : List Input}
    (h : s.Fed v n []) (hn : n % 512 = 0) (hbound : n + 8 * x.length ≤ 2 ^ 64 - 1) (hb : s.busy = false)
    (hi : s.inputs = absorbOps x ++ (execOps .finalize ++ (readDigestOps ++ rest))) :
    ∃ t, ReachesDigest s rest (compressWhole v (x ++ paddingFor (n / 8 + x.length))) (n + 8 * x.length) t := by
  obtain ⟨u, hreach, hu⟩ := h.reaches_absorbOps hb (by rwa [List.length_nil, Nat.zero_add]) hi
  obtain ⟨t, ht⟩ := hu.reachesDigest hn hbound hreach.idle hreach.inputs
  exact ⟨t, hreach.reachesDigest ht⟩

/-! ## The two programs -/

/-- EXEC INIT starts the context of a new message (40_streaming.md R101). -/
theorem reaches_execInit {s : State} {rest : List Input} (hb : s.busy = false) (hi : s.inputs = execOps .init ++ rest) :
    ∃ u, ReachesIdle s rest u ∧ u.Fed iv 0 [] := by
  obtain ⟨u, hreach, hsame, -⟩ := reaches_execOps rfl hb hi rfl
  exact ⟨u, hreach, (State.fed_nil rfl rfl).congr hsame⟩

/-- Settles O57: INIT starts the message's context, ABSORB feeds it, and FINALIZE pads it as SM3 does. -/
theorem hashProgramReadsTheDigest : Obligations.HashProgramReadsTheDigest := by
  intro m s rest hm hb hi
  simp only [List.append_assoc] at hi
  obtain ⟨s₁, hinit, hfed⟩ := reaches_execInit hb hi
  obtain ⟨t, ht⟩ := hfed.absorb_reachesDigest rfl (by omega) hinit.idle hinit.inputs
  obtain ⟨⟨n, hrun⟩, hins, hidle, hv, hcnt, hbuf, hphase, herr, hovr, ⟨log, hlog⟩⟩ := hinit.reachesDigest ht
  simp only [Nat.zero_div, Nat.zero_add] at hv hcnt hlog
  exact ⟨n, t, log, hrun, hins, hidle, hv, hcnt, hbuf, hphase, herr, hovr, hlog⟩

theorem bytesWords_wordsBytes {n : Nat} (ws : Vector Word n) : bytesWords n (wordsBytes ws) = ws := by
  ext i hi
  rw [bytesWords, Vector.getElem_ofFn, wordsBytes, word32_flatMap_be32 _ _ (by simpa using hi)]
  simp [hi]

/-- A message with its padding is a whole number of blocks (43_padding.md R182 (a)). -/
theorem length_append_paddingFor_mod (p : List Byte) : (p ++ paddingFor p.length).length % 64 = 0 := by
  rw [List.length_append, length_paddingFor, padZeros]
  omega

/-- LOADDIGEST d; SETCNT c; EXEC RESUME starts the context of d and c (41_resume_export.md R130). -/
theorem reaches_execResume {s : State} {rest : List Input} (d : List Byte) (c : DWord) (hb : s.busy = false)
    (hi : s.inputs = loadDigestOps d ++ (setCntOps c ++ (execOps .resume ++ rest))) :
    ∃ u, ReachesIdle s rest u ∧ u.Fed (bytesWords 8 d) c.toNat [] := by
  have hdin := run_loadDigestOps d hb hi
  generalize bytesWords 8 d = w at hdin ⊢
  let s₁ : State := { s with
    din := w, inputs := setCntOps c ++ (execOps .resume ++ rest), latencyLeft := s.latencyLeft - 8 }
  have hcntin := run_setCntOps (s := s₁) c hb rfl
  have hload := ReachesIdle.of_loads (t := { s₁ with cntin := c }) ((run_add 8 2 hdin).trans hcntin) hb rfl
  obtain ⟨u, hreach, hsame, -⟩ := reaches_execOps rfl hload.idle hload.inputs rfl
  exact ⟨u, hload.trans hreach, (State.fed_nil rfl rfl).congr hsame⟩

/-- The digest of a message that goes on after P's padding, from P's digest (41_resume_export.md R134, R135). -/
theorem sm3_append_paddingFor (p x : List Byte) : sm3 (p ++ paddingFor p.length ++ x) =
    compressWhole (sm3 p) (x ++ paddingFor (p.length + (paddingFor p.length).length + x.length)) := by
  rw [sm3, List.append_assoc, compressWhole_append_of_blocks _ _ (length_append_paddingFor_mod p), List.length_append,
    List.length_append]
  rfl

/-- Settles O58: RESUME starts from P's digest at the block boundary after P's padding. -/
theorem lengthExtensionProgramReadsTheDigest : Obligations.LengthExtensionProgramReadsTheDigest := by
  intro p x s rest hp hb hbound hi
  simp only [List.append_assoc] at hi
  have hblocks := length_append_paddingFor_mod p
  rw [List.length_append] at hblocks
  generalize hl : p.length + (paddingFor p.length).length = l at hblocks hbound hi
  have hcount : (BitVec.ofNat 64 (8 * l)).toNat = 8 * l := Nat.mod_eq_of_lt (by omega)
  obtain ⟨s₁, hresume, hfed⟩ := reaches_execResume _ _ hb hi
  rw [hcount, bytesWords_wordsBytes] at hfed
  obtain ⟨t, ht⟩ := hfed.absorb_reachesDigest (by omega) (by omega) hresume.idle hresume.inputs
  obtain ⟨⟨n, hrun⟩, hins, hidle, hv, -, -, -, herr, hovr, ⟨log, hlog⟩⟩ := hresume.reachesDigest ht
  rw [sm3_append_paddingFor, hl]
  rw [Nat.mul_div_cancel_left l (by omega)] at hv hlog
  exact ⟨n, t, log, hrun, hins, hidle, hv, herr, hovr, hlog⟩

end Sys2Proof.Machine
end

section
/-! The streaming commands one at a time: their completion and their exact results (40_streaming.md R100 to R102, R104,
20_memory.md R61). -/

namespace Sys2Proof.Machine

/-! ## The completion -/

/-- Settles O5: the core performs the word in flight, and what completes it is `State.retire`. -/
theorem stepRunsTheDecodedCommand : Obligations.StepRunsTheDecodedCommand :=
  fun _ _ _ _ hp hl hd he => step_of_legal hp hl hd he

theorem State.withFetchWord_pending (s : State) (c : Word) : (s.withFetchWord 32 c.toNat).pending = some c := by
  rw [State.withFetchWord, Nat.mod_eq_of_lt c.isLt, BitVec.ofNat_toNat, BitVec.setWidth_eq]

/-- Settles O6: the stored word is the command's encoding, which decodes to the command, and its completion is due. -/
theorem fetchWordIsPerformedNext : Obligations.FetchWordIsPerformedNext := fun s _ i hw he =>
  step_of_legal (s.withFetchWord_pending (encode i)) rfl (decodeOfEncodeIsTheCommand i hw) he

/-! ## INIT -/

/-- Settles O16: INIT reads no element of the state. -/
theorem initStartsAContext : Obligations.InitStartsAContext :=
  ⟨decodeOfEncodeIsTheCommand .init rfl, fun _ => rfl⟩

/-! ## UPDATE -/

/-- The fields of a command's word, the ill-formed UPDATE's too (30_encoding.md R80, R83). -/
theorem commandFields_encode (i : Instr) :
    res1Field (encode i) = 0 ∧ res0Field (encode i) = 0 ∧ opField (encode i) = opcodeOf i := by
  cases i with
  | update n => revert n; decide
  | init | finalize | resume | pad => decide

/-- Decoding an encoding is the range check of R84. -/
theorem decode_encode (i : Instr) : decode (encode i) = if i.wellFormed then .ok i else .error .nbytesOver64 := by
  obtain ⟨h1, h0, hop⟩ := commandFields_encode i
  exact decode_of_commandFields h1 h0 hop (nbytesField_encode i)

theorem decode_encode_update_of_gt {n : BitVec 7} (h : 64 < n.toNat) :
    decode (encode (.update n)) = .error .nbytesOver64 := by
  have hill : ¬ (Instr.update n).wellFormed = true := by simpa [Instr.wellFormed] using h
  rw [decode_encode, if_neg hill]

theorem getElem?_be32 (w : Word) {k : Nat} (hk : k < 4) : (be32 w)[k]? = some (w.extractLsb' (24 - 8 * k) 8) := by
  interval_cases k <;> rfl

/-- UPDATE's chunk byte by byte (20_memory.md R61). -/
theorem State.chunk_eq_map (s : State) {n : Nat} (hn : n ≤ 64) : s.chunk n =
    (List.range n).map fun k => (s.msg.toList.getD (k / 4) 0).extractLsb' (24 - 8 * (k % 4)) 8 := by
  apply List.ext_getElem?
  intro j
  by_cases hj : j < n
  · have hword : s.msg.toList[j / 4]? = some (s.msg.toList.getD (j / 4) 0) := by
      simp [show j / 4 < 16 by omega]
    have hbyte := getElem?_flatMap_be32 s.msg.toList (j / 4) (j % 4) (Nat.mod_lt _ (by omega))
    rw [hword, Option.bind_some, getElem?_be32 _ (Nat.mod_lt _ (by omega)), Nat.div_add_mod] at hbyte
    rw [State.chunk, List.getElem?_take_of_lt hj, State.msgBytes, wordsBytes, hbyte, List.getElem?_map,
      List.getElem?_range hj]
    rfl
  · rw [List.getElem?_eq_none (by rw [length_chunk]; omega), List.getElem?_eq_none (by simpa using hj)]

section
variable {s : State} {n : BitVec 7} (hfits : s.cnt.toNat + 8 * (s.buf.length + n.toNat) ≤ 2 ^ 64 - 1)
include hfits

theorem State.updateTooLong_eq_false_of_le : s.updateTooLong n.toNat = false := by
  rw [← Bool.not_eq_true, State.updateTooLong_iff]
  exact Nat.not_lt.mpr hfits

/-- A compression's 512 bits do not pass the end of CNT: the bound covers the 64 bytes it takes (10_state.md R34). -/
theorem toNat_cnt_add_block (hb : 64 ≤ s.buf.length + n.toNat) : (s.cnt + 512).toNat = s.cnt.toNat + 512 := by
  bv_omega

/-- UPDATE n in ACTIVE within the bound: one compression exactly when 64 bytes are there (40_streaming.md R102). -/
theorem exec_update_absorbs (hn : n.toNat ≤ 64) (hp : s.phase = .active) {b : List Byte}
    (hb : b = s.buf ++ s.chunk n.toNat) :
    ∃ t, exec (.update n) s = .next t ∧
      (b.length < 64 → t = { s with buf := b, err := .ok }) ∧
      (64 ≤ b.length → t = { s with v := cf s.v (b.take 64), cnt := s.cnt + 512, buf := b.drop 64, err := .ok } ∧
        t.cnt.toNat = s.cnt.toNat + 512) ∧
      (s.buf.length ≤ 63 → t.buf.length ≤ 63) := by
  have hlen : b.length = s.buf.length + n.toNat := by rw [hb, List.length_append, length_chunk_of_le s hn]
  have hexec : exec (.update n) s = .next ((s.absorb b).setErr .ok) := by
    rw [hb]
    exact execUpdate_of_fits (by rw [hp]; rfl) (State.updateTooLong_eq_false_of_le hfits)
  refine ⟨_, hexec, ?_⟩
  by_cases hlt : b.length < 64
  · rw [State.absorb_of_lt hlt]
    exact ⟨fun _ => rfl, fun hge => absurd hlt (Nat.not_lt.mpr hge), fun _ => Nat.le_of_lt_succ hlt⟩
  · have hge := Nat.not_lt.mp hlt
    rw [State.absorb_of_ge hge]
    refine ⟨fun h => absurd h hlt, fun _ => ⟨rfl, toNat_cnt_add_block hfits (hlen ▸ hge)⟩, fun hbuf => ?_⟩
    rw [State.setErr_buf, State.setContext_buf, List.length_drop]
    omega

end

/-- Settles O17: the range check is the decoder's, the phase and the length are checked before the chunk, and the chunk
is absorbed. -/
theorem updateAbsorbsTheChunk : Obligations.UpdateAbsorbsTheChunk := by
  refine ⟨fun n hn => decode_encode_update_of_gt hn, fun s n hn => ⟨?_, ?_, ?_, ?_, ?_⟩⟩
  · exact decodeOfEncodeIsTheCommand (.update n) (decide_eq_true hn)
  · exact fun hp => execUpdate_of_refusal n (by rw [hp]; rfl)
  · exact fun hp => execUpdate_of_refusal n (by rw [hp]; rfl)
  · exact fun hp hlong => execUpdate_of_long (by rw [hp]; rfl) ((s.updateTooLong_iff _).mpr hlong)
  · exact fun hp hfits => exec_update_absorbs hfits hn hp (by rw [s.chunk_eq_map hn])

/-! ## FINALIZE -/

/-- FINALIZE's one compression when the length field fits behind 0x80 (40_streaming.md R104). -/
theorem finalizeChaining_of_lt (v : Vector Word 8) {buf : List Byte} (total : Nat) (h : buf.length < 56) :
    finalizeChaining v buf total =
      cf v (buf ++ [0x80] ++ zeros (55 - buf.length) ++ be64 (BitVec.ofNat 64 total)) := by
  have hlen : (buf ++ [(0x80 : Byte)]).length = buf.length + 1 := List.length_append
  have hzeros : 56 - (buf ++ [(0x80 : Byte)]).length = 55 - buf.length := by omega
  rw [← hzeros]
  exact if_neg (by omega)

/-- FINALIZE's two compressions when it does not (40_streaming.md R104; 90_conflicts.md C4). -/
theorem finalizeChaining_of_ge (v : Vector Word 8) {buf : List Byte} (total : Nat) (h : 56 ≤ buf.length) :
    finalizeChaining v buf total =
      cf (cf v (buf ++ [0x80] ++ zeros (63 - buf.length))) (zeros 56 ++ be64 (BitVec.ofNat 64 total)) := by
  have hlen : (buf ++ [(0x80 : Byte)]).length = buf.length + 1 := List.length_append
  have hzeros : 64 - (buf ++ [(0x80 : Byte)]).length = 63 - buf.length := by omega
  rw [← hzeros]
  exact if_pos (by omega)

/-- Settles O18: the total is exact within R34's bound, and 0x80 leaves room for the length field below 56
bytes only. -/
theorem finalizePadsAndEmitsTheDigest : Obligations.FinalizePadsAndEmitsTheDigest := by
  refine ⟨decodeOfEncodeIsTheCommand .finalize rfl, fun s => ⟨?_, ?_, ?_⟩⟩
  · exact fun hp => execFinalize_of_refusal (by rw [hp]; rfl)
  · exact fun hp => execFinalize_of_refusal (by rw [hp]; rfl)
  · intro hp _ hbound
    have hexec := execFinalize_of_active (s := s) (by rw [hp]; rfl)
    refine ⟨BitVec.ofNat 64 s.totalBits, Nat.mod_eq_of_lt (Nat.lt_of_le_pred (by decide) hbound), fun hlt => ?_,
      fun hge => ?_⟩
    · rw [finalizeChaining_of_lt s.v s.totalBits hlt] at hexec
      exact hexec
    · rw [finalizeChaining_of_ge s.v s.totalBits hge] at hexec
      exact hexec

/-! ## What UPDATE and FINALIZE read -/

/-- DIN and CNTIN are RESUME's operands alone (10_state.md R28). -/
theorem exec_ignores_resumeOperands {i : Instr} (hi : i = .finalize ∨ ∃ n, i = .update n) (s : State)
    (d : Vector Word 8) (c : DWord) :
    ∃ t, exec i s = .next t ∧ exec i { s with din := d, cntin := c } = .next { t with din := d, cntin := c } := by
  rcases hi with rfl | ⟨n, rfl⟩
  · cases hp : s.phase.refusal with
    | some e => exact ⟨_, execFinalize_of_refusal hp, execFinalize_of_refusal hp⟩
    | none => exact ⟨_, execFinalize_of_active hp, execFinalize_of_active hp⟩
  · cases hp : s.phase.refusal with
    | some e => exact ⟨_, execUpdate_of_refusal n hp, execUpdate_of_refusal n hp⟩
    | none =>
      cases hl : s.updateTooLong n.toNat with
      | true => exact ⟨_, execUpdate_of_long hp hl, execUpdate_of_long hp hl⟩
      | false =>
        by_cases hb : (s.buf ++ s.chunk n.toNat).length < 64
        · exact ⟨_, execUpdate_of_lt hp hl hb, execUpdate_of_lt hp hl hb⟩
        · have hb := Nat.not_lt.mp hb
          exact ⟨_, execUpdate_of_ge hp hl hb, execUpdate_of_ge hp hl hb⟩

/-- Settles O24: with DIN and CNTIN of the second state, the first has the operands of the second, so the effect is
one. -/
theorem hashCommandsReadOnlyContextAndMsg : Obligations.HashCommandsReadOnlyContextAndMsg := by
  intro i s s' hi hv hcnt hbuf hphase hmsg
  have hpad : i ≠ .pad := by rcases hi with rfl | ⟨n, rfl⟩ <;> exact Instr.noConfusion
  let s₁ : State := { s with din := s'.din, cntin := s'.cntin }
  have same : SameHashOperands s₁ s' := ⟨hv.symm, hcnt.symm, hbuf.symm, hphase.symm, hmsg.symm, rfl, rfl⟩
  obtain ⟨t, ht, hs⟩ := exec_ignores_resumeOperands hi s₁ s.din s.cntin
  rcases exec_hash_effect hpad s₁ with ⟨e, h⟩ | ⟨v, cnt, buf, p, h⟩
  · cases (h s₁ (.refl s₁)).symm.trans ht
    exact ⟨_, _, hs, h s' same, hv, hcnt, hbuf, hphase, rfl⟩
  · cases (h s₁ (.refl s₁)).symm.trans ht
    exact ⟨_, _, hs, h s' same, rfl, rfl, rfl, rfl, rfl⟩

end Sys2Proof.Machine
end

section
/-! Whole messages fed chunk by chunk and finalized (40_streaming.md R102 to R105). -/

namespace Sys2Proof.Machine

/-- A context with less than a block in BUF has been fed its BUF. -/
theorem State.fed_buf {s : State} (hp : s.phase = .active) (hbuf : s.buf.length ≤ 63) :
    s.Fed s.v s.cnt.toNat s.buf where
  phase := hp
  v := (compressWhole_of_length_lt s.v s.buf (by omega)).symm
  cnt := by omega
  buf := (restBytes_of_length_lt (by omega)).symm

section
variable {v : Vector Word 8} {n : Nat} {m : List Byte} {s : State} (h : s.Fed v n m)
include h

/-- The start and the bytes fed fix the context (40_streaming.md R103). -/
theorem State.Fed.context_eq {t : State} (h' : t.Fed v n m) : s.v = t.v ∧ s.cnt = t.cnt ∧ s.buf = t.buf :=
  ⟨h.v.trans h'.v.symm, BitVec.eq_of_toNat_eq (h.cnt.trans h'.cnt.symm), h.buf.trans h'.buf.symm⟩

/-- LOADMSG c; UPDATE |c| feeds c. -/
theorem State.Fed.feed {c : List Byte} (hc : c.length ≤ 64) (hbound : n + 8 * (m.length + c.length) ≤ 2 ^ 64 - 1) :
    ∃ t, Machine.feed c s = .next t ∧ t.Fed v n (m ++ c) := by
  have hk : (BitVec.ofNat 7 c.length).toNat = c.length := by rw [BitVec.toNat_ofNat]; omega
  obtain ⟨t, ht, hfed, -⟩ := (h.loadMsg c).update hk hc (s.chunk_loadMsg hc) hbound
  exact ⟨t, ht, hfed⟩

/-- The chunks one after another feed the message they make up (40_streaming.md R103). -/
theorem State.Fed.feedAll {cs : List (List Byte)} (hcs : ∀ c ∈ cs, c.length ≤ 64)
    (hbound : n + 8 * (m.length + cs.flatten.length) ≤ 2 ^ 64 - 1) :
    ∃ t, Machine.feedAll cs s = .next t ∧ t.Fed v n (m ++ cs.flatten) := by
  induction cs generalizing s m with
  | nil => exact ⟨s, rfl, by rwa [List.flatten_nil, List.append_nil]⟩
  | cons c cs ih =>
    rw [List.flatten_cons, List.length_append] at hbound
    obtain ⟨t, ht, hfed⟩ := h.feed (hcs c List.mem_cons_self) (by omega)
    obtain ⟨u, hu, hfed'⟩ := ih hfed (fun d hd => hcs d (List.mem_cons_of_mem c hd))
      (by rw [List.length_append]; omega)
    refine ⟨u, ?_, by rwa [List.flatten_cons, ← List.append_assoc]⟩
    rw [Machine.feedAll, ht]
    exact hu

end

/-- Settles O47: the context has been fed its own BUF, and then the message. -/
theorem feedingCompressesWholeBlocksInOrder : Obligations.FeedingCompressesWholeBlocksInOrder := by
  intro cs s hp hbuf hcs hbound
  obtain ⟨t, ht, hfed⟩ := (State.fed_buf hp hbuf).feedAll hcs hbound
  rw [← List.length_append]
  exact ⟨t, ht, hfed.v, hfed.cnt, hfed.buf, hfed.phase⟩

/-- Settles O48: what has been fed is the message, however it was split. -/
theorem chunkingDoesNotMatter : Obligations.ChunkingDoesNotMatter := by
  intro cs ds s hp hbuf heq hcs hds hbound
  have hstart := State.fed_buf hp hbuf
  obtain ⟨t, ht, hfed⟩ := hstart.feedAll hcs hbound
  obtain ⟨u, hu, hfed'⟩ := hstart.feedAll hds (heq ▸ hbound)
  exact ⟨t, u, ht, hu, hfed.context_eq (heq ▸ hfed')⟩

/-- Settles O49: the context has been fed its own BUF from a count of whole blocks. -/
theorem finalizeAgreesWithThePaddingCalculator : Obligations.FinalizeAgreesWithThePaddingCalculator := by
  intro s hp hbuf _ hcnt
  have hbytes : (s.cnt.toNat + 8 * s.buf.length) / 8 = s.cnt.toNat / 8 + s.buf.length := by omega
  rw [hbytes]
  exact ⟨_, (State.fed_buf hp hbuf).finalize hcnt, rfl⟩

/-- Settles O50: INIT's context, of IV and count 0, is fed the message and finalized. -/
theorem hashingAMessageGivesItsDigest : Obligations.HashingAMessageGivesItsDigest := by
  intro cs s hcs hlen
  have hinit : State.Fed iv 0 [] _ := State.fed_nil (s := (s.setContext iv 0 [] .active).setErr .ok) rfl rfl
  obtain ⟨t, ht, hfed⟩ := hinit.feedAll hcs (by rw [List.length_nil]; omega)
  have hfinal := hfed.finalize rfl
  simp only [List.nil_append, Nat.zero_div, Nat.zero_add] at hfinal
  have hrun : hashChunks cs s = exec .finalize t := by
    rw [hashChunks]
    exact congrArg (andThen · (exec .finalize)) ht
  exact ⟨_, hrun.trans hfinal, rfl, Nat.mod_eq_of_lt (by omega), rfl, rfl, rfl⟩

end Sys2Proof.Machine
end

section
/-! RESUME and the resumption of a message from its digest (41_resume_export.md R130 to R136). -/

namespace Sys2Proof.Machine

/-- RESUME reads DIN and CNTIN and no other element of the state (41_resume_export.md R130). -/
theorem exec_resume (s : State) : exec .resume s = .next ((s.setContext s.din s.cntin [] .active).setErr .ok) := rfl

/-! ## The corner of the 64-bit bound -/

section
variable {s : State} (hp : s.phase = .active)
include hp

/-- Once the count stands at 2^64 - 1, one more byte passes the bound (40_streaming.md R102). -/
theorem exec_update_of_cnt_max (hcnt : s.cnt.toNat = 2 ^ 64 - 1) {n : BitVec 7} (hn : 1 ≤ n.toNat) :
    exec (.update n) s = .next (s.setErr .length) :=
  execUpdate_of_long (by rw [hp]; rfl) ((s.updateTooLong_iff _).mpr (by omega))

/-- UPDATE 0 of a context within R34's bounds changes nothing but ERR (40_streaming.md R102). -/
theorem exec_update_zero (hbuf : s.buf.length < 64) (hbound : s.cnt.toNat + 8 * s.buf.length ≤ 2 ^ 64 - 1) :
    exec (.update 0) s = .next (s.setErr .ok) := by
  obtain ⟨t, ht, hsmall, -, -⟩ := exec_update_absorbs (n := 0) hbound (by decide) hp (List.append_nil s.buf).symm
  rw [ht, hsmall hbuf]
  rfl

end

/-- Settles O19: RESUME's context is ACTIVE with an empty BUF, so UPDATE fails there by its length alone. -/
theorem resumeInstallsDigestAndCount : Obligations.ResumeInstallsDigestAndCount :=
  ⟨decodeOfEncodeIsTheCommand .resume rfl, exec_resume, fun s hcnt =>
    ⟨_, exec_resume s, fun _ hn _ => exec_update_of_cnt_max rfl hcnt hn,
      exec_update_zero rfl (Nat.zero_lt_succ _) hcnt.le⟩⟩

/-! ## The claimed count -/

/-- Settles O46: the padding is 0x80, the length field, and the zeros up to the end of the block. -/
theorem claimedCountIsThePaddedBlocks : Obligations.ClaimedCountIsThePaddedBlocks := by
  intro l
  rw [length_paddingFor, padZeros]
  omega

/-! ## Export and RESUME -/

/-- RESUME of the digest d and the count c starts their context (41_resume_export.md R130). -/
theorem exec_resume_fed (s : State) (d : Vector Word 8) (c : DWord) :
    ∃ t, exec .resume { s with din := d, cntin := c } = .next t ∧ t.Fed d c.toNat [] := by
  let t := ({ s with din := d, cntin := c }.setContext d c [] .active).setErr .ok
  exact ⟨t, exec_resume _, State.fed_nil (s := t) rfl rfl⟩

/-- Settles O52: the exported bytes are loaded as the words they came from. -/
theorem exportThenResumeRestoresTheContext : Obligations.ExportThenResumeRestoresTheContext := by
  intro s t hp hbuf
  refine ⟨length_wordsBytes s.v, bytesWords_wordsBytes s.v, _, exec_resume _, ?_, rfl, hbuf.symm, hp.symm⟩
  exact bytesWords_wordsBytes s.v

/-- Settles O53: RESUME's context fed the bytes of BUF is the context they were buffered in. -/
theorem resumeInsideABlockNeedsRefeeding : Obligations.ResumeInsideABlockNeedsRefeeding := by
  intro s t hp hbuf hbound
  obtain ⟨u, hu, hfed⟩ := exec_resume_fed t s.v s.cnt
  have hk : (BitVec.ofNat 7 s.buf.length).toNat = s.buf.length := by rw [BitVec.toNat_ofNat]; omega
  obtain ⟨w, hw, hfed', herr⟩ := (hfed.loadMsg s.buf).update hk (by omega) (u.chunk_loadMsg (by omega))
    (by rw [List.length_nil]; omega)
  obtain ⟨hv, hcnt, hb⟩ := hfed'.context_eq (State.fed_buf hp hbuf)
  exact ⟨u, w, hu, hfed.buf, hw, hv, hcnt, hb, hfed'.phase, herr⟩

/-! ## The length extension -/

/-- A context at a block boundary is fed the chunks and finalized (40_streaming.md R103, R104). -/
theorem State.Fed.feedAll_finalize {v : Vector Word 8} {n : Nat} {s : State} (h : s.Fed v n []) (hn : n % 512 = 0)
    {cs : List (List Byte)} (hcs : ∀ c ∈ cs, c.length ≤ 64) (hbound : n + 8 * cs.flatten.length ≤ 2 ^ 64 - 1) :
    ∃ t, andThen (Machine.feedAll cs s) (exec .finalize) = .next t ∧
      t.v = compressWhole v (cs.flatten ++ paddingFor (n / 8 + cs.flatten.length)) ∧ t.err = .ok := by
  obtain ⟨u, hu, hfed⟩ := h.feedAll hcs (by rw [List.length_nil]; omega)
  rw [hu]
  exact ⟨_, hfed.finalize hn, rfl, rfl⟩

/-- Settles O51: RESUME starts from P's digest at the block boundary after P's padding. -/
theorem lengthExtensionLaw : Obligations.LengthExtensionLaw := by
  intro p xs s _ hxs hbound
  have hblocks := length_append_paddingFor_mod p
  rw [List.length_append] at hblocks
  rw [sm3_append_paddingFor]
  generalize p.length + (paddingFor p.length).length = l at hblocks hbound ⊢
  have hcount : (BitVec.ofNat 64 (8 * l)).toNat = 8 * l := Nat.mod_eq_of_lt (by omega)
  obtain ⟨u, hu, hfed⟩ := exec_resume_fed s (sm3 p) (BitVec.ofNat 64 (8 * l))
  rw [hcount] at hfed
  obtain ⟨t, ht, hv, herr⟩ := hfed.feedAll_finalize (by omega) hxs (by omega)
  rw [Nat.mul_div_cancel_left l (by decide)] at hv
  refine ⟨t, ?_, hv, herr⟩
  rw [extendChunks, hu]
  exact ht

end Sys2Proof.Machine
end

section
/-! The compression function in the spec's own terms: ROTL as a rotation to the left, the words of a block and one round
written out (42_compression.md R150 to R161). -/

namespace Sys2Proof.Machine

/-! ## Rotation -/

theorem rotl_of_mod_eq_zero (x : Word) {n : Nat} (h : n % 32 = 0) : rotl x n = x := if_pos h

theorem rotl_of_mod_ne_zero (x : Word) {n : Nat} (h : n % 32 ≠ 0) :
    rotl x n = (x <<< (n % 32)) ||| (x >>> (32 - n % 32)) := if_neg h

/-- For k = 0 the library's rotation shifts by 0 and by the whole width. -/
theorem rotl_eq_rotateLeft (x : Word) (n : Nat) : rotl x n = x.rotateLeft n := by
  rw [BitVec.rotateLeft_def]
  by_cases h : n % 32 = 0
  · rw [rotl_of_mod_eq_zero x h, h, BitVec.shiftLeft_zero, BitVec.ushiftRight_eq_zero (Nat.le_refl 32), BitVec.or_zero]
  · exact rotl_of_mod_ne_zero x h

/-- A bit below the top n mod 32 moves up by as much; one of those comes round to the bottom. -/
theorem getLsbD_rotl (x : Word) (n : Nat) {k : Nat} (hk : k < 32) :
    (rotl x n).getLsbD ((k + n) % 32) = x.getLsbD k := by
  rw [rotl_eq_rotateLeft, BitVec.getLsbD_rotateLeft]
  by_cases h : k + n % 32 < 32
  · have hpos : (k + n) % 32 = k + n % 32 := by omega
    simp [hpos, h]
  · have hpos : (k + n) % 32 = k + n % 32 - 32 := by omega
    have hlow : k + n % 32 - 32 < n % 32 := by omega
    have hback : 32 - n % 32 + (k + n % 32 - 32) = k := by omega
    simp [hpos, hlow, hback]

/-- Settles O40: the rule's formula by its two cases. -/
theorem rotationIsLeftRotation : Obligations.RotationIsLeftRotation := fun x n =>
  ⟨rotl_of_mod_ne_zero x, rotl_of_mod_eq_zero x, rotl_eq_rotateLeft x n, fun _ => getLsbD_rotl x n⟩

/-! ## The words of a block -/

@[simp] theorem length_messageWords (blk : List Byte) : (messageWords blk).length = 16 := by
  rw [messageWords, List.length_map, List.length_range]

theorem expandedWords_eq_append (blk : List Byte) : ∃ l, expandedWords blk = messageWords blk ++ l ∧ l.length = 52 :=
  expandBy_eq_append 52 (messageWords blk)

theorem wAt_append {ws l : List Word} {j : Nat} (h : j < ws.length) : wAt (ws ++ l) j = wAt ws j :=
  List.getD_append _ _ _ _ h

theorem wAt_append_cons_length (ws l : List Word) (x : Word) : wAt (ws ++ x :: l) ws.length = x := by
  rw [wAt, List.getD_append_right _ _ _ _ (Nat.le_refl _), Nat.sub_self, List.getD_cons_zero]

theorem wAt_messageWords (blk : List Byte) {j : Nat} (hj : j < 16) : wAt (messageWords blk) j = word32 blk j := by
  rw [wAt, List.getD_eq_getElem _ _ (by rwa [length_messageWords])]
  simp [messageWords]

/-- An added word is the recurrence's, of the words in front of it. -/
theorem expandBy_eq_append_nextWord {n j : Nat} {ws : List Word} (hlo : ws.length ≤ j) (hhi : j < ws.length + n) :
    ∃ p l, expandBy n ws = p ++ nextWord p :: l ∧ p.length = j := by
  induction n generalizing ws with
  | zero => omega
  | succ n ih =>
    rw [expandBy]
    by_cases hj : j = ws.length
    · obtain ⟨l, hl, -⟩ := expandBy_eq_append n (ws ++ [nextWord ws])
      exact ⟨ws, l, by rw [hl, List.append_assoc, List.singleton_append], hj.symm⟩
    · have hlen : (ws ++ [nextWord ws]).length = ws.length + 1 := List.length_append
      exact ih (by omega) (by omega)

/-- The recurrence looks back 3 to 16 words, all of them in front of the word (42_compression.md R158). -/
theorem wAt_append_nextWord {p l : List Word} (hp : 16 ≤ p.length) :
    let w := wAt (p ++ nextWord p :: l)
    w p.length = p1 (w (p.length - 16) ^^^ w (p.length - 9) ^^^ rotl (w (p.length - 3)) 15) ^^^
      rotl (w (p.length - 13)) 7 ^^^ w (p.length - 6) := by
  intro w
  have hback (d : Nat) (hd : 0 < d) : w (p.length - d) = p.getD (p.length - d) 0 := wAt_append (by omega)
  rw [hback 16 (by decide), hback 9 (by decide), hback 3 (by decide), hback 13 (by decide), hback 6 (by decide)]
  exact wAt_append_cons_length _ _ _

/-- The message words are the front of the expansion (42_compression.md R157). -/
theorem wAt_expandedWords_of_lt (blk : List Byte) {j : Nat} (hj : j < 16) :
    wAt (expandedWords blk) j = word32 blk j := by
  obtain ⟨l, hl, -⟩ := expandedWords_eq_append blk
  rw [hl, wAt_append (by rwa [length_messageWords]), wAt_messageWords blk hj]

theorem wAt_expandedWords_of_ge (blk : List Byte) {j : Nat} (hlo : 16 ≤ j) (hhi : j ≤ 67) :
    let w := wAt (expandedWords blk)
    w j = p1 (w (j - 16) ^^^ w (j - 9) ^^^ rotl (w (j - 3)) 15) ^^^ rotl (w (j - 13)) 7 ^^^ w (j - 6) := by
  obtain ⟨p, l, h, rfl⟩ : ∃ p l, expandedWords blk = p ++ nextWord p :: l ∧ p.length = j :=
    expandBy_eq_append_nextWord (by rwa [length_messageWords]) (by rw [length_messageWords]; omega)
  rw [h]
  exact wAt_append_nextWord hlo

@[simp] theorem length_expandedWords (blk : List Byte) : (expandedWords blk).length = 68 := by
  obtain ⟨l, h, hl⟩ := expandedWords_eq_append blk
  rw [h, List.length_append, length_messageWords, hl]

/-- Settles O41: the message words in front, then the recurrence with P1 and its rotations written out. -/
theorem messageExpansionFollowsItsRecurrence : Obligations.MessageExpansionFollowsItsRecurrence := by
  intro blk _
  refine ⟨length_expandedWords blk, fun j hj => ?_, fun j hlo hhi => ?_, fun _ _ => rfl⟩
  · rw [wAt_expandedWords_of_lt blk hj, word32_eq_append]
  · intro w x
    have h := wAt_expandedWords_of_ge blk hlo hhi
    simp only [p1, rotl_eq_rotateLeft] at h
    exact h

/-! ## The rounds -/

/-- R153 takes j mod 32, which the rotation does anyway. -/
theorem roundConst_eq_rotateLeft (j : Nat) :
    roundConst j = if j ≤ 15 then (0x79CC4519 : Word).rotateLeft j else (0x7A879D8A : Word).rotateLeft j := by
  rw [roundConst, rotl_eq_rotateLeft, rotl_eq_rotateLeft, BitVec.rotateLeft_mod_eq_rotateLeft,
    BitVec.rotateLeft_mod_eq_rotateLeft]

/-- Settles O42: T[j] and every ROTL of the round are rotations; FF, GG and W1 are the model's own formulas. -/
theorem roundFollowsItsDataFlow : Obligations.RoundFollowsItsDataFlow := by
  intro w j r _
  simp only [compressionRound, roundConst_eq_rotateLeft, rotl_eq_rotateLeft, p0]
  rfl

/-- Settles O43: the registers before round j are those of the first j rounds. -/
theorem compressionRunsSixtyFourRounds : Obligations.CompressionRunsSixtyFourRounds := fun v blk =>
  ⟨fun j => compressionRounds (expandedWords blk) j (Work.ofState v), rfl, fun _ _ => rfl, feedForward_toList v _⟩

end Sys2Proof.Machine
end

section
/-! The padding calculator (43_padding.md R180 to R183): the shape of a padding, its length, and its bytes in PADOUT. -/

namespace Sys2Proof.Machine

/-! ## The length field -/

/-- One step of reading a value big-endian: the bits above a byte, then that byte. -/
theorem shiftRight_mul_add_byte (v : DWord) (i : Nat) :
    (v.toNat >>> (i + 8)) * 256 + (v.extractLsb' i 8).toNat = v.toNat >>> i := by
  rw [BitVec.extractLsb'_toNat, Nat.shiftRight_add, Nat.shiftRight_eq_div_pow (v.toNat >>> i)]
  exact Nat.div_add_mod' _ _

/-- `be64` read back big-endian; no bit is above its first byte. -/
theorem foldl_be64 (v : DWord) : (be64 v).foldl (fun n b => n * 256 + b.toNat) 0 = v.toNat := by
  have hnone : v.toNat >>> (56 + 8) = 0 := Nat.shiftRight_eq_zero _ _ v.isLt
  have htop : 0 * 256 + (v.extractLsb' 56 8).toNat = v.toNat >>> 56 := by rw [← shiftRight_mul_add_byte, hnone]
  simp only [be64, List.foldl_cons, List.foldl_nil]
  rw [htop, shiftRight_mul_add_byte v 48, shiftRight_mul_add_byte v 40, shiftRight_mul_add_byte v 32,
    shiftRight_mul_add_byte v 24, shiftRight_mul_add_byte v 16, shiftRight_mul_add_byte v 8]
  exact shiftRight_mul_add_byte v 0

/-- 8L fits the length field when L is below 2^61 (43_padding.md R180). -/
theorem toNat_lengthField {l : Nat} (h : l < 2 ^ 61) : (BitVec.ofNat 64 (8 * l)).toNat = 8 * l :=
  Nat.mod_eq_of_lt (by omega)

/-! ## The number of zeros -/

/-- The rule's own formula, over the integers (43_padding.md R181). -/
theorem padZeros_cast (l : Nat) : (padZeros l : Int) = (55 - ((l % 64 : Nat) : Int)) % 64 := by
  unfold padZeros
  omega

theorem padZeros_fills (l : Nat) : (l + 1 + padZeros l + 8) % 64 = 0 := by
  unfold padZeros
  omega

theorem padZeros_le_of_fills {l z : Nat} (h : (l + 1 + z + 8) % 64 = 0) : padZeros l ≤ z := by
  unfold padZeros
  omega

/-- The number of zeros depends on L mod 64 only (43_padding.md R182 (e)). -/
theorem padZeros_of_mod {l r : Nat} (h : l % 64 = r) : padZeros l = (64 + 55 - r) % 64 := by
  rw [padZeros, h]

/-- Settles O44: the model's number of zeros is the rule's, and the length field is exact below 2^61. -/
theorem paddingFillsTheBlockExactly : Obligations.PaddingFillsTheBlockExactly := fun l hl =>
  ⟨padZeros l, padZeros_cast l, padZeros_le l, ⟨BitVec.ofNat 64 (8 * l), toNat_lengthField hl, rfl⟩,
    length_paddingFor l, padZeros_fills l, fun _ => padZeros_le_of_fills⟩

/-! ## The bytes of a padding -/

theorem length_paddingFor_sub_eight (l : Nat) : (paddingFor l).length - 8 = padZeros l + 1 := by
  rw [length_paddingFor]
  omega

/-- The last 8 bytes of a padding are the length field (43_padding.md R181). -/
theorem drop_paddingFor (l : Nat) :
    (paddingFor l).drop ((paddingFor l).length - 8) = be64 (BitVec.ofNat 64 (8 * l)) := by
  rw [length_paddingFor_sub_eight]
  exact List.drop_left' (by simp [Nat.add_comm])

/-- The bytes between 0x80 and the length field are 0 (43_padding.md R182 (d)). -/
theorem getElem?_paddingFor_zero {l k : Nat} (hlo : 1 ≤ k) (hhi : k < (paddingFor l).length - 8) :
    (paddingFor l)[k]? = some 0 := by
  rw [length_paddingFor_sub_eight] at hhi
  obtain ⟨j, rfl⟩ := Nat.exists_eq_add_of_le' hlo
  have hj : j < padZeros l := Nat.lt_of_succ_lt_succ hhi
  calc (paddingFor l)[j + 1]? = (zeros (padZeros l) ++ be64 (BitVec.ofNat 64 (8 * l)))[j]? := rfl
    _ = (zeros (padZeros l))[j]? := List.getElem?_append_left (by rwa [length_zeros])
    _ = some 0 := List.getElem?_replicate_of_lt hj

/-- Settles O45: the laws (a) to (e) from the length 9 + z, with z a function of L mod 64, and from the bytes. -/
theorem paddingLaws : Obligations.PaddingLaws := by
  intro l hl
  have hlen := length_paddingFor l
  have hz := padZeros_le l
  refine ⟨?_, ?_, by omega, by omega, rfl, fun k => getElem?_paddingFor_zero, fun l' _ hmod => ?_⟩
  · have hfills := padZeros_fills l
    omega
  · rw [drop_paddingFor, foldl_be64, toNat_lengthField hl]
  · rw [length_paddingFor, hlen, padZeros_of_mod hmod, padZeros]

/-! ## PAD -/

/-- Byte k of a word file filled from a byte string (20_memory.md R64). -/
theorem byte_bytesWords {n k : Nat} (bs : List Byte) (hk : k < 4 * n) :
    ((bytesWords n bs).toList.getD (k / 4) 0).extractLsb' (24 - 8 * (k % 4)) 8 = bs.getD k 0 := by
  have hmod : k % 4 < 4 := Nat.mod_lt _ (by decide)
  have hword : (bytesWords n bs).toList.getD (k / 4) 0 = word32 bs (k / 4) := by
    simp [bytesWords, show k / 4 < n by omega]
  have hbyte := (getElem?_be32 (word32 bs (k / 4)) hmod).symm.trans (word32_bytes bs (k / 4) (k % 4) hmod)
  rw [hword, Option.some.inj hbyte, Nat.div_add_mod]

/-- Settles O20: PAD's two cases, the length of the padding of PADLEN, and PADOUT byte by byte. -/
theorem padWritesTheExactPadding : Obligations.PadWritesTheExactPadding := by
  refine ⟨decodeOfEncodeIsTheCommand .pad rfl, fun s => ⟨?_, fun hfits => ?_⟩⟩
  · exact fun hlong => execPad_of_long (s.padTooLong_iff.mpr hlong)
  · have hnb := toNat_length_paddingFor s.padlen.toNat
    have hlen := length_paddingFor s.padlen.toNat
    have hz := padZeros_le s.padlen.toNat
    refine ⟨BitVec.ofNat 7 (paddingFor s.padlen.toNat).length, bytesWords 18 (paddingFor s.padlen.toNat), ?_, hnb,
      by omega, by omega, fun h0 => ?_, fun h55 => ?_, fun h56 => ?_, fun k hk => ?_⟩
    · exact execPad_of_fits (decide_eq_false (Nat.not_le.mpr hfits))
    · have hzeros := padZeros_of_mod (l := s.padlen.toNat) (r := 0) (by rw [h0]; rfl)
      omega
    · have hzeros := padZeros_of_mod h55
      omega
    · have hzeros := padZeros_of_mod h56
      omega
    · rw [byte_bytesWords _ hk, hnb]
      split
      · rfl
      · next hpast => exact List.getD_eq_default _ _ (Nat.not_lt.mp hpast)

end Sys2Proof.Machine
end

section
/-! Completions and errors: every word's completion, the one code it reports, and what a code other than OK leaves alone
(60_exceptions.md R200 to R208); and the block with nothing in flight (R219). -/

namespace Sys2Proof.Machine

/-! ## The completion -/

/-- The completion that is due, whatever the word in flight (40_streaming.md R100). -/
theorem step_of_performed {s t : State} {c : Word} (hp : s.pending = some c) (hl : s.latencyLeft = 0)
    (h : perform c s = .next t) : step s = .next t.retire := by
  rw [step_of_coreTurn (coreTurn_of_pending hp hl), coreStep_of_pending hp, h]
  rfl

/-- Every word is performed, and one that reports a code other than OK sets it and does nothing else (R206). -/
theorem perform_spec (c : Word) (s : State) :
    ∃ t, perform c s = .next t ∧ (t.err ≠ .ok → t = s.setErr t.err) := by
  cases hd : decode c with
  | error e => exact ⟨_, perform_of_illegal s hd, fun _ => rfl⟩
  | ok i =>
    obtain ⟨t, ht, -, -, hfail⟩ := exec_spec i s
    exact ⟨t, (perform_of_legal s hd).trans ht, hfail⟩

/-- Settles O8: the completion is `State.retire` of what the word does, and a failing word has set ERR alone. -/
theorem failedCommandWritesErrOnly : Obligations.FailedCommandWritesErrOnly := by
  intro s c hp hl
  obtain ⟨t, ht, hfail⟩ := perform_spec c s
  exact ⟨t.retire, step_of_performed hp hl ht, rfl, fun herr => congrArg State.retire (hfail herr)⟩

theorem hostStep_answers (s : State) : ∃ t, hostStep s = .next t := by
  rcases hostStep_cases s with ⟨-, e⟩ | ⟨_, -, e⟩ | ⟨_, _, -, e⟩ | ⟨_, _, _, -, e⟩ | ⟨_, _, _, _, -, -, e⟩
  all_goals exact ⟨_, e⟩

/-- Settles O7: a host step answers a next state, a refused access too, and so does the completion of any word. -/
theorem everyStepAnswersANextState : Obligations.EveryStepAnswersANextState := by
  intro s
  cases hc : s.coreTurn with
  | false => rw [step_of_hostTurn hc]; exact hostStep_answers s.tick
  | true =>
    obtain ⟨hb, hl⟩ := (coreTurn_iff s).mp hc
    obtain ⟨c, hp⟩ := Option.isSome_iff_exists.mp hb
    obtain ⟨t, ht, -⟩ := perform_spec c s
    exact ⟨_, step_of_performed hp hl ht⟩

/-- Settles O10: with no latency left to count and no input to take, the host's step is no step. -/
theorem idleBlockDoesNothing : Obligations.IdleBlockDoesNothing := by
  intro s hb hl hi
  have htick : s.tick = s := by rw [State.tick, hl, Nat.zero_sub, ← hl]
  rw [step_of_hostTurn (by rw [State.coreTurn, hb]; rfl), htick]
  simp only [hostStep, hi]

/-! ## The code of a command -/

/-- The code that command i reports in state s: the phase check before the length check (R203, R205, R207, R208). -/
def State.errCode (s : State) : Instr → ErrCode
  | .init | .resume => .ok
  | .update n => s.phase.refusal.getD (if s.updateTooLong n.toNat then .length else .ok)
  | .finalize => s.phase.refusal.getD .ok
  | .pad => if s.padTooLong then .length else .ok

theorem err_of_exec {i : Instr} {s t : State} (h : exec i s = .next t) : t.err = s.errCode i := by
  cases i with
  | init | resume => cases h; rfl
  | update n =>
    cases hp : s.phase.refusal with
    | some e => cases (execUpdate_of_refusal n hp).symm.trans h; simp [State.errCode, hp]
    | none =>
      cases hl : s.updateTooLong n.toNat with
      | true => cases (execUpdate_of_long hp hl).symm.trans h; simp [State.errCode, hp, hl]
      | false => cases (execUpdate_of_fits hp hl).symm.trans h; simp [State.errCode, hp, hl]
  | finalize =>
    cases hp : s.phase.refusal with
    | some e => cases (execFinalize_of_refusal hp).symm.trans h; simp [State.errCode, hp]
    | none => cases (execFinalize_of_active hp).symm.trans h; simp [State.errCode, hp]
  | pad =>
    cases hl : s.padTooLong with
    | true => cases (execPad_of_long hl).symm.trans h; simp [State.errCode, hl]
    | false => cases (execPad_of_fits hl).symm.trans h; simp [State.errCode, hl]

section
variable {s : State} {i : Instr}

/-- UPDATE and FINALIZE are refused by the phase before anything else is looked at (R203, R205, R207). -/
theorem State.errCode_of_refusal {e : ErrCode} (hop : opcodeOf i = 2 ∨ opcodeOf i = 3)
    (hp : s.phase.refusal = some e) : s.errCode i = e := by
  cases i with
  | update n | finalize => rw [State.errCode, hp, Option.getD_some]
  | init | resume | pad => simp [opcodeOf] at hop

/-- UPDATE's code in ACTIVE, by the exact bound (R208). -/
theorem State.errCode_update_active (hop : opcodeOf i = 2) (hp : s.phase = .active) : s.errCode i =
    if s.cnt.toNat + 8 * (s.buf.length + (nbytesOf i).toNat) > 2 ^ 64 - 1 then .length else .ok := by
  cases i with
  | update n =>
    simp only [State.errCode, hp, Phase.refusal, Option.getD_none, State.updateTooLong_iff, gt_iff_lt, nbytesOf]
  | init | finalize | resume | pad => simp [opcodeOf] at hop

theorem State.errCode_finalize_active (hop : opcodeOf i = 3) (hp : s.phase = .active) : s.errCode i = .ok := by
  cases i with
  | finalize => rw [State.errCode, hp, Phase.refusal, Option.getD_none]
  | init | update n | resume | pad => simp [opcodeOf] at hop

/-- INIT and RESUME check nothing (40_streaming.md R101, 41_resume_export.md R130). -/
theorem State.errCode_start (hop : opcodeOf i = 1 ∨ opcodeOf i = 4) : s.errCode i = .ok := by
  cases i with
  | init | resume => rfl
  | update n | finalize | pad => simp [opcodeOf] at hop

theorem State.errCode_pad (hop : opcodeOf i = 5) :
    s.errCode i = if s.padlen.toNat ≥ 2 ^ 61 then .length else .ok := by
  cases i with
  | pad => simp only [State.errCode, State.padTooLong_iff, ge_iff_le]
  | init | update n | finalize | resume => simp [opcodeOf] at hop

end

/-- The model's legality test picks out the words that decode (30_encoding.md R84). -/
theorem legal_iff_decodes (c : Word) : legal c = true ↔ ∃ i, decode c = .ok i := by
  rw [← legalConditions_iff_decodes]
  simp [legal, and_assoc, imp_iff_not_or]

/-- Settles O9: a word that does not decode reports ILLEGAL; of one that does, OP selects the command, whose checks in
order give the code. -/
theorem oneErrorCodeByPriority : Obligations.OneErrorCodeByPriority := by
  intro s c hp hl
  cases hd : decode c with
  | error e =>
    have hill : legal c = false := by
      rw [← Bool.not_eq_true, legal_iff_decodes, hd]
      simp
    exact ⟨_, step_of_illegal hp hl hd, by simp [hill]⟩
  | ok i =>
    have hlegal : legal c = true := (legal_iff_decodes c).mpr ⟨i, hd⟩
    obtain ⟨-, -, hop, hn⟩ := commandFields_of_decode hd
    obtain ⟨t, ht, -⟩ := exec_spec i s
    refine ⟨t.retire, step_of_legal hp hl hd ht, ?_⟩
    rw [opField] at hop
    rw [nbytesField] at hn
    rw [hlegal, hop, hn, State.retire_err, err_of_exec ht]
    exact ⟨nofun,
      fun _ h => ⟨fun hidle => State.errCode_of_refusal h (by rw [hidle]; rfl),
        fun hfinal => State.errCode_of_refusal h (by rw [hfinal]; rfl)⟩,
      fun _ => State.errCode_update_active, fun _ => State.errCode_finalize_active, fun _ => State.errCode_start,
      fun _ => State.errCode_pad⟩

end Sys2Proof.Machine
end

section
/-! Writes while BUSY = 1, and OVR (20_memory.md R68, 60_exceptions.md R209). -/

namespace Sys2Proof.Machine

/-! ## Dropped writes -/

/-- The offsets of CMD and of the input registers (20_memory.md R52, 60_exceptions.md R209). -/
theorem exists_dropped_reg_of_offset {off : Offset}
    (h : off ∈ [0x04, 0x18, 0x1C, 0xA0, 0xA4] ∨ (∃ i : Fin 8, off = 0x40 + 4 * BitVec.ofNat 8 i) ∨
      ∃ i : Fin 16, off = 0x60 + 4 * BitVec.ofNat 8 i) :
    ∃ r : Reg, off = r.offset ∧ r.droppedWhileBusy = true := by
  rcases h with h | ⟨i, rfl⟩ | ⟨i, rfl⟩
  · simp only [List.mem_cons, List.not_mem_nil, or_false] at h
    rcases h with rfl | rfl | rfl | rfl | rfl
    · exact ⟨.cmd, rfl, rfl⟩
    · exact ⟨.cntinLo, rfl, rfl⟩
    · exact ⟨.cntinHi, rfl, rfl⟩
    · exact ⟨.padlenLo, rfl, rfl⟩
    · exact ⟨.padlenHi, rfl, rfl⟩
  · exact ⟨.din i, rfl, rfl⟩
  · exact ⟨.msg i, rfl, rfl⟩

theorem State.regWrite_dropped {s : State} {r : Reg} (w : Word) (hb : s.busy = true)
    (hr : r.droppedWhileBusy = true) : s.regWrite r.offset w = s.dropWrite := by
  simp [State.regWrite, hb, hr]

theorem step_of_droppedWrite {s : State} {r : Reg} {w : Word} {rest : List Input}
    (hi : s.inputs = .write 32 r.offset w :: rest) (hb : s.busy = true) (hl : s.latencyLeft ≠ 0)
    (hr : r.droppedWhileBusy = true) : step s = .next (s.tick.setInputs rest).dropWrite := by
  rw [step_of_writeInput hi (hostTurn_of (.inr hl)), busWrite, not_refused_offset, if_neg (by simp),
    State.regWrite_dropped (s := s.tick.setInputs rest) w hb hr]
  rfl

/-! ## What clears OVR -/

/-- CMD is the register of one aligned offset (20_memory.md R52). -/
theorem eq_four_of_regAt_eq_cmd {off : Offset} (hr : regAt off = .cmd) (halign : off.toNat % 4 = 0) : off = 0x04 := by
  revert off
  decide

/-- RegWrite clears OVR by an acceptance and in no other way (20_memory.md R68). -/
theorem State.regWrite_clears_ovr {s : State} {off : Offset} {w : Word} (ho : s.ovr = true)
    (h : (s.regWrite off w).ovr = false) : s.busy = false ∧ regAt off = .cmd ∧ s.regWrite off w = s.accept w := by
  cases hb : s.busy with
  | true =>
    cases hr : (regAt off).droppedWhileBusy with
    | true => simp [State.regWrite, hb, hr] at h
    | false => simp [State.regWrite, hb, hr, ho] at h
  | false =>
    by_cases hc : regAt off = .cmd
    · exact ⟨rfl, hc, by simp [State.regWrite, hb, hc]⟩
    · have hw : s.regWrite off w = s.writeInput w (regAt off) := by simp [State.regWrite, hb, hc]
      rw [hw] at h
      rcases s.writeInput_cases w (regAt off) with e | ⟨_, e⟩ | ⟨_, e⟩ | ⟨_, e⟩ | ⟨_, e⟩ <;> rw [e] at h <;>
        cases ho.symm.trans h

/-- The host's step clears OVR by a reset or by a write to CMD that is accepted (R209). -/
theorem hostStep_clears_ovr {s t : State} (h : hostStep s = .next t) (ho : s.ovr = true) (ht : t.ovr = false) :
    s.resetNext ∨ ∃ c rest, s.inputs = .write 32 0x04 c :: rest ∧ s.busy = false ∧ t.pending = some c := by
  rcases hostStep_cases s with ⟨-, e⟩ | ⟨rest, hi, e⟩ | ⟨rest, off, -, e⟩ | ⟨ins, off, w, -, e⟩ |
    ⟨rest, width, off, w, hi, hrefused, e⟩ <;> rw [e] at h <;> cases h
  · cases ho.symm.trans ht
  · exact .inl (by rw [State.resetNext, hi]; rfl)
  · cases ho.symm.trans ht
  · rcases (s.setInputs ins).afterRead_cases off with e | e <;> rw [e] at ht <;> cases ho.symm.trans ht
  · rw [← Bool.not_eq_true, refusedAccess_iff, not_or, not_not, not_not] at hrefused
    obtain ⟨rfl, halign⟩ := hrefused
    obtain ⟨hb, hr, haccept⟩ := State.regWrite_clears_ovr (s := s.setInputs rest) ho ht
    rw [eq_four_of_regAt_eq_cmd hr halign] at hi
    exact .inr ⟨w, rest, hi, hb, by rw [haccept, State.accept_pending]⟩

/-- Settles O33: each listed offset is that of a register whose write is dropped; a completion keeps OVR, so only the
host's step can clear it. -/
theorem writesWhileBusyAreDropped : Obligations.WritesWhileBusyAreDropped := by
  constructor
  · intro s off w rest hi hb hl hoff
    obtain ⟨r, rfl, hr⟩ := exists_dropped_reg_of_offset hoff
    exact step_of_droppedWrite hi hb hl hr
  · intro s t ho hs ht
    rcases step_cases hs with ⟨hc, hhost⟩ | ⟨-, c, -, -, ⟨-, rfl⟩ | ⟨i, u, -, hu, rfl⟩⟩
    · exact ⟨hc, hostStep_clears_ovr (s := s.tick) hhost ho ht⟩
    · cases ho.symm.trans ht
    · obtain ⟨_, he, -, -, -, -, hovr, -⟩ := commandsKeepInputRegisters i s
      cases he.symm.trans hu
      cases (hovr.trans ho).symm.trans ht

end Sys2Proof.Machine
end

section
/-! The reset input on the host's turn (70_reset_and_hazards.md R230, R231). -/

namespace Sys2Proof.Machine

/-- A host step that takes the reset input, whether or not a command is in flight. -/
theorem step_of_resetInput {s : State} {rest : List Input} (hi : s.inputs = .reset :: rest)
    (ht : s.coreTurn = false) : step s = .next (s.tick.setInputs rest).resetBlock := by
  rw [step_of_hostTurn ht]
  simp [hostStep, hi]

/-- Settles O12: the host's step takes the reset input, and `State.resetBlock` keeps nothing of the block, so neither the
command in flight nor the latency the step counted is left. -/
theorem resetInputDiscardsTheCommandInFlight : Obligations.ResetInputDiscardsTheCommandInFlight := by
  intro s rest hi hturn
  rw [step_of_resetInput hi (hostTurn_of hturn)]
  rfl

end Sys2Proof.Machine
end
